-- ==== Sys2Proof/Word.lean ====
section
/-! DEFINITION. The words of the block: the three-bit codes of the `cmd` and `status` ports. An element is `DATA_WIDTH` bits, a
parameter (R8), and no rule looks inside one (R35), so it is held as the unsigned number its bits make, a `Nat` with the check
`< 2 ^ DATA_WIDTH` (`Command.fits`, `Memory.fits`); counts, counters, offsets and slot indexes are numbers (R15, R16, R32, R49)
and `Nat` too. DESIGN CHOICE, log 6. -/

namespace Sys2Proof

/-- The `cmd[2:0]` port (R46, R50). -/
abbrev CmdCode := BitVec 3

/-- The `status[2:0]` port (R46, R53). -/
abbrev StatusCode := BitVec 3

end Sys2Proof
end

