-- ==== Sys2Proof/Config.lean ====
section
/-! DEFINITION. What is fixed when a block is built (the parameters `CAPACITY` and `DATA_WIDTH`, R7, R8), and the values the
spec leaves open. -/

namespace Sys2Proof

/-- The elaboration-time parameters of one block. `CAPACITY >= 1` is a proof field, as R62 allows, so a block of no slots
cannot be written down; `DATA_WIDTH >= 1` is R8. There is no upper bound and no power-of-two restriction (R7, D7). -/
structure Config where
  capacity : Nat
  dataWidth : Nat
  capacity_pos : 1 ≤ capacity
  dataWidth_pos : 1 ≤ dataWidth
deriving DecidableEq, Repr

namespace Config

/-- The reference configuration of the test vectors, `CAPACITY = 4, DATA_WIDTH = 8` (R10). -/
def reference : Config := ⟨4, 8, by decide, by decide⟩

/-- FREE VALUE: the `dout` port where no element is returned, "any value", drawn afresh each step (R55, U5). `draw` numbers
the draws of a run. It has no body: nothing can be proved of it but its width. DESIGN CHOICE of form, log 4. -/
opaque freeDout (dataWidth draw : Nat) : BitVec dataWidth

/-- FREE VALUE: what a slot holds that no command has written since power-up, "any value", never read from a state that meets
the invariant (R30, U6). One value a slot. DESIGN CHOICE of form, log 5. -/
opaque powerUpSlot (dataWidth slot : Nat) : BitVec dataWidth

end Config

end Sys2Proof
end

