-- ==== Sys2Proof/Machine/Widths.lean ====
section
/-! DEFINITION. The derived widths of R9. -/

namespace Sys2Proof

/-- The search of `clog2`: the first `w` from the given one on with `n <= 2^w`, within `fuel` tries. -/
def clog2From (n : Nat) : Nat → Nat → Nat
  | 0, w => w
  | fuel + 1, w => if n ≤ 2 ^ w then w else clog2From n fuel (w + 1)

/-- `clog2(n)`, the least `w >= 0` with `2^w >= n` (R9); `n` tries are enough. -/
def clog2 (n : Nat) : Nat := clog2From n n 0

/-- `PTR_W = max(1, clog2(CAPACITY))`, bits of a slot index (R9). -/
def Config.ptrWidth (c : Config) : Nat := max 1 (clog2 c.capacity)

/-- `CNT_W = clog2(CAPACITY + 1)`, bits of a count and of the `offset` port (R9, R46). -/
def Config.cntWidth (c : Config) : Nat := clog2 (c.capacity + 1)

/-- The width `3 + CNT_W + DATA_WIDTH` of the canonical command word (R57). -/
def Config.wordWidth (c : Config) : Nat := 3 + c.cntWidth + c.dataWidth

end Sys2Proof
end

