-- ==== Sys2Proof/Syntax.lean ====
section
/-! DEFINITION. The commands of the block, one constructor for each row of spec/opcode_table.json, and the port triple that
carries one (R48). -/

namespace Sys2Proof

/-- A command with the operand it uses (R50). A field a command ignores (R48) is no part of it. -/
inductive Instr where
  /-- `cmd = 0`, a cycle with no operation (R92). -/
  | nop
  /-- `cmd = 1`, strict insert (R73). -/
  | push (din : Nat)
  /-- `cmd = 2`, lossy insert (R76). -/
  | pushov (din : Nat)
  /-- `cmd = 3`, remove the oldest (R81). -/
  | pop
  /-- `cmd = 4`, inspect without removing (R84). -/
  | peek (offset : Nat)
  /-- `cmd = 5`, discard all live elements (R89). -/
  | flush
  /-- `cmd = 6`, zero both counters (R63). -/
  | release
  /-- `cmd = 7`, the reserved code (R93). -/
  | illegal
deriving DecidableEq, Repr

/-- The command ports of one cycle, the one format `CMD` (R46, R48); `offset` and `din` are unsigned (R49). -/
structure Command where
  cmd : CmdCode
  offset : Nat
  din : Nat
deriving DecidableEq, Repr

end Sys2Proof
end

