-- ==== Sys2Proof/WellFormed.lean ====
section
/-! DEFINITION. Which operand values the ports of a configuration can carry (R46, R49). -/

namespace Sys2Proof

/-- The operand fits its port: `din` is `DATA_WIDTH` bits, `offset` is `CNT_W` bits (R46, R49, R88). -/
def Instr.wellFormed (c : Config) : Instr → Bool
  | .nop => true
  | .push din => decide (din < 2 ^ c.dataWidth)
  | .pushov din => decide (din < 2 ^ c.dataWidth)
  | .pop => true
  | .peek offset => decide (offset < 2 ^ c.cntWidth)
  | .flush => true
  | .release => true
  | .illegal => true

/-- The values of the two operand ports fit them, used or not (R46). -/
def Command.fits (c : Config) (x : Command) : Bool :=
  decide (x.offset < 2 ^ c.cntWidth) && decide (x.din < 2 ^ c.dataWidth)

end Sys2Proof
end

