-- ==== Sys2Proof/Decode.lean ====
section
/-! DEFINITION. Decoding the command ports and the canonical command word, and encoding them (R48 to R52, R57). -/

namespace Sys2Proof

/-- Why a listing's command word is not one of a configuration. -/
inductive DecodeError where
  /-- The word has a bit above its `3 + CNT_W + DATA_WIDTH` bits (R57). Safe: the hardware has no such word. DESIGN CHOICE, log 11. -/
  | wordTooWide
deriving DecidableEq, Repr

/-- The opcode map (R50). Total, and the choice depends on `cmd[2:0]` alone (R51). -/
def decodeCommand (x : Command) : Instr :=
  match x.cmd.toNat with
  | 0 => .nop
  | 1 => .push x.din
  | 2 => .pushov x.din
  | 3 => .pop
  | 4 => .peek x.offset
  | 5 => .flush
  | 6 => .release
  | _ => .illegal

/-- The fields of a word `{cmd[2:0], offset[CNT_W-1:0], din[DATA_WIDTH-1:0]}` (R57). -/
def splitWord (c : Config) (w : Nat) : Command where
  cmd := BitVec.ofNat 3 (w / 2 ^ (c.cntWidth + c.dataWidth))
  offset := w / 2 ^ c.dataWidth % 2 ^ c.cntWidth
  din := w % 2 ^ c.dataWidth

/-- Decoding a canonical command word of a configuration (R57). -/
def decodeWord (c : Config) (w : Nat) : Except DecodeError Instr :=
  if w < 2 ^ c.wordWidth then .ok (decodeCommand (splitWord c w)) else .error .wordTooWide

/-- The port values of a word of spec/opcode_table.json: the table numbers `cmd[2:0]` as bits 2 to 0 and gives the operand
ports no bits, which are then 0. DEDUCED, log 10. -/
def tableCommand (nbits w : Nat) : Command where
  cmd := BitVec.ofNat 3 (w % 2 ^ nbits)
  offset := 0
  din := 0

/-- What the decoder reads from a word numbered as spec/opcode_table.json numbers it. Never `none`: all eight codes decode (R51). -/
def decodeTableWord (nbits w : Nat) : Option Instr := some (decodeCommand (tableCommand nbits w))

/-- The command code of a command (R50). -/
def Instr.opcode : Instr → CmdCode
  | .nop => 0
  | .push _ => 1
  | .pushov _ => 2
  | .pop => 3
  | .peek _ => 4
  | .flush => 5
  | .release => 6
  | .illegal => 7

/-- The `offset` port of a command, 0 where it is ignored (R57). -/
def Instr.offsetField : Instr → Nat
  | .nop => 0
  | .push _ => 0
  | .pushov _ => 0
  | .pop => 0
  | .peek offset => offset
  | .flush => 0
  | .release => 0
  | .illegal => 0

/-- The `din` port of a command, 0 where it is ignored (R57). -/
def Instr.dinField : Instr → Nat
  | .nop => 0
  | .push din => din
  | .pushov din => din
  | .pop => 0
  | .peek _ => 0
  | .flush => 0
  | .release => 0
  | .illegal => 0

/-- The port triple that presents a command (R48), ignored fields 0. -/
def encodeCommand (i : Instr) : Command := ⟨i.opcode, i.offsetField, i.dinField⟩

/-- `{cmd, offset, din}` as one number (R57). -/
def joinWord (c : Config) (x : Command) : Nat :=
  x.cmd.toNat * 2 ^ (c.cntWidth + c.dataWidth) + x.offset * 2 ^ c.dataWidth + x.din

/-- The canonical command word of a command (R57). -/
def encode (c : Config) (i : Instr) : Nat := joinWord c (encodeCommand i)

/-- Does a success of this command return an element on `dout` (the "returns" column of R50; R55)? -/
def Instr.returnsElement : Instr → Bool
  | .nop => false
  | .push _ => false
  | .pushov _ => false
  | .pop => true
  | .peek _ => true
  | .flush => false
  | .release => false
  | .illegal => false

end Sys2Proof
end

