-- ==== Sys2Proof/Machine/State.lean ====
section
/-! DEFINITION. The state of the block as plain data, its outcomes, and the state after reset (R13 to R31). -/

namespace Sys2Proof.Machine

/-- Why a run stops for good. No step of a built block does (R11, R105). -/
inductive Fault where
  /-- InvalidCapacity (R62, R96). Raised by `create` alone, on `capacity < 1`; no block exists afterwards. Safe: the spec's own. -/
  | invalidCapacity
deriving DecidableEq, Repr

/-- What the model does not answer. -/
inductive Refusal where
  /-- An instruction with no meaning yet. Raised by no arm of `exec`. Safe. -/
  | notModelled (mnemonic : String)
  /-- `create` with `DATA_WIDTH < 1`, which is no legal value (R8). Raised by `create` alone. Safe. DESIGN CHOICE, log 12. -/
  | illegalDataWidth
deriving DecidableEq, Repr

/-- The typed result of a command: exactly five values (R53, R54). -/
inductive Status where
  | ok
  | bufferFull
  | bufferEmpty
  | outOfRange
  | illegalCommand
deriving DecidableEq, Repr

/-- The failures a command of a running block can raise (R95). InvalidCapacity is `Fault.invalidCapacity`. -/
inductive Failure where
  | bufferFull
  | bufferEmpty
  | outOfRange
  | illegalCommand
deriving DecidableEq, Repr

/-- `storage` (R14): the written slots with their elements, slots strictly rising; a slot not listed is unwritten. -/
abbrev Memory := List (Nat × Nat)

/-- The three registers (R21). -/
structure Registers where
  rdPtr : Nat
  wrPtr : Nat
  cnt : Nat
deriving DecidableEq, Repr

/-- The input tuple of one step (R11): `rst` and the command ports. -/
structure Input where
  rst : Bool
  command : Command
deriving DecidableEq, Repr

/-- The Mealy outputs of one cycle (R46, R47). -/
structure Response where
  status : Status
  dout : Nat
deriving DecidableEq, Repr

/-- The state: `storage`, `head`, `tail` (R13) and the registers that realise them (R21); with them the block's parameters,
which no step changes (R7, log 1), the inputs still to come (log 2), the Mealy outputs of the cycle that ended, none for a
reset cycle (log 3, log 8), and the number of free values drawn (log 4). -/
structure State where
  config : Config
  storage : Memory
  head : Nat
  tail : Nat
  regs : Registers
  inputs : List Input
  response : Option Response
  draws : Nat
deriving DecidableEq, Repr

/-- The state of a block right after construction and reset, "a new empty buffer with `head = tail = 0`" (R31, R61, R112),
with no slot written, no input pending and no command answered yet. -/
def State.initial (c : Config) : State where
  config := c
  storage := []
  head := 0
  tail := 0
  regs := ⟨0, 0, 0⟩
  inputs := []
  response := none
  draws := 0

/-- The state after reset of the reference configuration (R10, R31; log 1). -/
def State.reset : State := State.initial Config.reference

end Sys2Proof.Machine
end

