-- ==== Sys2Proof/Machine/Operands.lean ====
section
/-! DEFINITION. The slot a command works at: modular index arithmetic over the counters (R18), and the explicit wrap of the
registers (R24, R25). -/

namespace Sys2Proof.Machine

/-- The slot of the element at logical position `p` from the oldest, `(tail + p) mod CAPACITY` (R18). -/
def State.slotOf (s : State) (p : Nat) : Nat := (s.tail + p) % s.config.capacity

/-- The slot of the next write, `head mod CAPACITY` (R18). -/
def State.wrSlot (s : State) : Nat := s.head % s.config.capacity

/-- The slot of the oldest live element, `tail mod CAPACITY` (R18). -/
def State.rdSlot (s : State) : Nat := s.tail % s.config.capacity

/-- `inc(p)`: successor of a slot index, wrapping at `CAPACITY` and not at a power of two (R24). -/
def inc (capacity : Nat) (p : Nat) : Nat := if p + 1 = capacity then 0 else p + 1

/-- `add_wrap(p, k)`: offset addition with one conditional subtraction (R25). -/
def addWrap (capacity : Nat) (p : Nat) (k : Nat) : Nat :=
  if capacity ≤ p + k then p + k - capacity else p + k

end Sys2Proof.Machine
end

