-- ==== Sys2Proof/Machine/Flags.lean ====
section
/-! DEFINITION. The queries and flags, the Moore outputs (R17, R27, R46, R67 to R71), and the status codes (R53). -/

namespace Sys2Proof.Machine

/-- `count = head - tail` (R17, R67). -/
def State.count (s : State) : Nat := s.head - s.tail

/-- `remaining = CAPACITY - count` (R17, R68). -/
def State.remaining (s : State) : Nat := s.config.capacity - s.count

/-- `full`: `count == CAPACITY` (R17, R69). -/
def State.full (s : State) : Bool := decide (s.count = s.config.capacity)

/-- `empty`: `head == tail` (R17, R70). -/
def State.empty (s : State) : Bool := decide (s.head = s.tail)

/-- The continuously driven outputs (R46). -/
structure Moore where
  count : Nat
  remaining : Nat
  full : Bool
  empty : Bool
deriving DecidableEq, Repr

/-- The Moore outputs of a state (R47, R71). -/
def State.moore (s : State) : Moore := ⟨s.count, s.remaining, s.full, s.empty⟩

/-- The same outputs as the registers drive them (register level of R67 to R70). -/
def Registers.moore (capacity : Nat) (r : Registers) : Moore :=
  ⟨r.cnt, capacity - r.cnt, decide (r.cnt = capacity), decide (r.cnt = 0)⟩

/-- The numeric code on the `status` port (R53). -/
def Status.code : Status → StatusCode
  | .ok => 0
  | .bufferFull => 1
  | .bufferEmpty => 2
  | .outOfRange => 3
  | .illegalCommand => 4

/-- The status that delivers a failure (R95). -/
def Failure.status : Failure → Status
  | .bufferFull => .bufferFull
  | .bufferEmpty => .bufferEmpty
  | .outOfRange => .outOfRange
  | .illegalCommand => .illegalCommand

end Sys2Proof.Machine
end

