-- ==== Sys2Proof/Machine/Ops.lean ====
section
/-! DEFINITION. The named operations: storage access (R36, R37), the counter and register updates of a step, answering a
command, raising a failure (R103), the reset edge (R112), and taking the next input (R11, R47). -/

namespace Sys2Proof.Machine

/-- The element last written to a slot, or nothing where none was (R14, R36). -/
def Memory.read : Memory → Nat → Option Nat
  | [], _ => none
  | (b, w) :: m, a => if a = b then some w else Memory.read m a

/-- `storage[a] <- v`, the other slots kept (R37), the list kept in rising order. -/
def Memory.write : Memory → Nat → Nat → Memory
  | [], a, v => [(a, v)]
  | (b, w) :: m, a, v =>
    if a < b then (a, v) :: (b, w) :: m
    else if a = b then (a, v) :: m
    else (b, w) :: Memory.write m a v

/-- Slots strictly rising, none below `lo`. -/
def Memory.risesFrom (lo : Nat) : Memory → Bool
  | [] => true
  | (a, _) :: m => decide (lo ≤ a) && Memory.risesFrom (a + 1) m

/-- The canonical form: slots strictly rising. Every listed slot is written and every other one is not, so equal storage
contents are equal lists. -/
def Memory.wf (m : Memory) : Bool := Memory.risesFrom 0 m

/-- Every listed slot exists and holds `DATA_WIDTH` bits (R14, R32). -/
def Memory.fits (c : Config) (m : Memory) : Bool :=
  m.all fun x => decide (x.1 < c.capacity) && decide (x.2 < 2 ^ c.dataWidth)

/-- What a slot holds: the element last written, or the slot's power-up content, a free value (R30, R36, U6; log 5). -/
def Memory.element (dataWidth : Nat) (m : Memory) (a : Nat) : Nat :=
  (Memory.read m a).getD (Config.powerUpSlot dataWidth a).toNat

/-- `MemRead(a, 1)` (R36); it changes no state (R40). -/
def State.memRead (s : State) (a : Nat) : Nat := Memory.element s.config.dataWidth s.storage a

/-- `MemWrite(a, 1, v)` (R37). -/
def State.memWrite (s : State) (a : Nat) (v : Nat) : State :=
  { s with storage := Memory.write s.storage a v }

/-- The registers of an accepted insert (R74). -/
def Registers.insert (capacity : Nat) (r : Registers) : Registers :=
  { r with wrPtr := inc capacity r.wrPtr, cnt := r.cnt + 1 }

/-- The registers of an overwriting insert (R77). -/
def Registers.replace (capacity : Nat) (r : Registers) : Registers :=
  { r with rdPtr := inc capacity r.rdPtr, wrPtr := inc capacity r.wrPtr }

/-- The registers of a removal (R82). -/
def Registers.remove (capacity : Nat) (r : Registers) : Registers :=
  { r with rdPtr := inc capacity r.rdPtr, cnt := r.cnt - 1 }

/-- The registers of FLUSH (R90). -/
def Registers.discard (r : Registers) : Registers := { r with rdPtr := r.wrPtr, cnt := 0 }

/-- The registers of RELEASE and of reset (R64, R112). -/
def Registers.zero : Registers := ⟨0, 0, 0⟩

/-- `head <- head + 1` (R73), with its registers. -/
def State.insertOne (s : State) : State :=
  { s with head := s.head + 1, regs := s.regs.insert s.config.capacity }

/-- `tail <- tail + 1 ; head <- head + 1` (R76 on a full buffer), with its registers. -/
def State.replaceOldest (s : State) : State :=
  { s with head := s.head + 1, tail := s.tail + 1, regs := s.regs.replace s.config.capacity }

/-- `tail <- tail + 1` (R81), with its registers. -/
def State.removeOldest (s : State) : State :=
  { s with tail := s.tail + 1, regs := s.regs.remove s.config.capacity }

/-- `tail <- head` (R89), with its registers; no slot is written. -/
def State.discardAll (s : State) : State := { s with tail := s.head, regs := s.regs.discard }

/-- `head <- 0 ; tail <- 0` (R63, R112), with its registers; no slot is written. -/
def State.zeroCounters (s : State) : State := { s with head := 0, tail := 0, regs := Registers.zero }

/-- Answer with a status and no element: `dout` is any value, drawn afresh (R55, U5; log 4). -/
def State.answer (s : State) (st : Status) : State :=
  { s with
    response := some ⟨st, (Config.freeDout s.config.dataWidth s.draws).toNat⟩
    draws := s.draws + 1 }

/-- Answer OK with the element returned on `dout` (R55). -/
def State.answerElement (s : State) (v : Nat) : State := { s with response := some ⟨.ok, v⟩ }

/-- `raise`: the status is the failure's code, no state of the block changes, `dout` is any value, and control goes nowhere
(R102, R103, R105). There is nothing to return from. -/
def State.raise (s : State) (f : Failure) : State := s.answer f.status

/-- The edge with `rst = 1`: the counters and registers become 0, the storage is not written, and there is no response
(R112, R113; log 8). -/
def State.resetEdge (s : State) : State := { s.zeroCounters with response := none }

/-- The cycle in which the requester calls nothing: `rst = 0` and NOP on the ports (R92, R117). -/
def Input.idle : Input := ⟨false, encodeCommand .nop⟩

/-- One step with `rst = 1` (the pseudo-command RESET, R59). -/
def Input.reset : Input := ⟨true, encodeCommand .nop⟩

/-- The input that presents a command, ignored fields 0 (R48). -/
def Input.ofInstr (i : Instr) : Input := ⟨false, encodeCommand i⟩

/-- The values fit the ports (R46). -/
def Input.fits (c : Config) (x : Input) : Bool := x.command.fits c

/-- The input of the cycle now running: the first pending one, and idle where the requester presents none (R11, R47, R92; log 2). -/
def State.presented (s : State) : Input := s.inputs.headD Input.idle

/-- The state with the input of this cycle taken. -/
def State.afterFetch (s : State) : State := { s with inputs := s.inputs.tail }

end Sys2Proof.Machine
end

