-- ==== Sys2Proof/Machine/Control.lean ====
section
/-! DEFINITION. NOP, FLUSH, RELEASE and the reserved code (spec/44_flush_nop.md, spec/40_lifecycle.md). -/

namespace Sys2Proof.Machine

/-- NOP (R92): status OK, nothing changes. -/
def execNop (s : State) : Host.Outcome State Fault Refusal := .next (s.answer .ok)

/-- FLUSH (R89): `tail` becomes `head`; the storage is kept bit for bit. -/
def execFlush (s : State) : Host.Outcome State Fault Refusal := .next (s.discardAll.answer .ok)

/-- RELEASE (R63): both counters become 0; `CAPACITY` and the storage are kept. -/
def execRelease (s : State) : Host.Outcome State Fault Refusal := .next (s.zeroCounters.answer .ok)

/-- The reserved code (R93): IllegalCommand, and the block goes on (R105). -/
def execIllegal (s : State) : Host.Outcome State Fault Refusal := .next (s.raise .illegalCommand)

end Sys2Proof.Machine
end

