-- ==== Sys2Proof/Machine/Insert.lean ====
section
/-! DEFINITION. The insert commands PUSH and PUSHOV (spec/42_push.md). -/

namespace Sys2Proof.Machine

/-- PUSH `din` (R73): refused with BufferFull on a full buffer, else stored at `head mod CAPACITY`. -/
def execPush (din : Nat) (s : State) : Host.Outcome State Fault Refusal :=
  if s.full then .next (s.raise .bufferFull)
  else .next (((s.memWrite s.wrSlot din).insertOne).answer .ok)

/-- PUSHOV `din` (R76): on a full buffer the oldest element is dropped in the same step; the slot and the full test use the
counters before the step. -/
def execPushov (din : Nat) (s : State) : Host.Outcome State Fault Refusal :=
  if s.full then .next (((s.memWrite s.wrSlot din).replaceOldest).answer .ok)
  else .next (((s.memWrite s.wrSlot din).insertOne).answer .ok)

end Sys2Proof.Machine
end

