-- ==== Sys2Proof/Machine/Remove.lean ====
section
/-! DEFINITION. The remove and inspect commands POP and PEEK (spec/43_pop_peek.md). -/

namespace Sys2Proof.Machine

/-- POP (R81): refused with BufferEmpty on an empty buffer, else the element at `tail mod CAPACITY` is returned and `tail`
advances. -/
def execPop (s : State) : Host.Outcome State Fault Refusal :=
  if s.empty then .next (s.raise .bufferEmpty)
  else .next (s.removeOldest.answerElement (s.memRead s.rdSlot))

/-- PEEK `offset` (R84): refused with OutOfRange where `offset >= count`, on an empty buffer too (R87), else the element at
`(tail + offset) mod CAPACITY` is returned; nothing changes. The offset is any natural number (R88). -/
def execPeek (offset : Nat) (s : State) : Host.Outcome State Fault Refusal :=
  if s.count ≤ offset then .next (s.raise .outOfRange)
  else .next (s.answerElement (s.memRead (s.slotOf offset)))

end Sys2Proof.Machine
end

