-- ==== Sys2Proof/Machine/Dispatch.lean ====
section
/-! DEFINITION. One arm for each command: the meaning it calls. -/

namespace Sys2Proof.Machine

def exec (i : Instr) (s : State) : Host.Outcome State Fault Refusal :=
  match i with
  | .nop => Sys2Proof.Machine.execNop s
  | .push din => Sys2Proof.Machine.execPush din s
  | .pushov din => Sys2Proof.Machine.execPushov din s
  | .pop => Sys2Proof.Machine.execPop s
  | .peek offset => Sys2Proof.Machine.execPeek offset s
  | .flush => Sys2Proof.Machine.execFlush s
  | .release => Sys2Proof.Machine.execRelease s
  | .illegal => Sys2Proof.Machine.execIllegal s

end Sys2Proof.Machine
end

