-- ==== Sys2Proof/Machine/Step.lean ====
section
/-! DEFINITION. One step, one rising clock edge (R11): the input of the cycle is taken, `rst = 1` has priority over the command
(R51, R113), and otherwise the command on the ports is executed. -/

namespace Sys2Proof.Machine

def step (s : State) : Host.Outcome State Fault Refusal :=
  if s.presented.rst then .next s.afterFetch.resetEdge
  else exec (decodeCommand s.presented.command) s.afterFetch

/-- The state whose next step runs the command of a word numbered as spec/opcode_table.json numbers it: the requester presents
it, with `rst = 0`, in the cycle now running (log 2, log 10). -/
def State.withFetchWord (s : State) (nbits w : Nat) : State :=
  { s with inputs := ⟨false, tableCommand nbits w⟩ :: s.inputs.tail }

end Sys2Proof.Machine
end

