-- ==== Sys2Proof/Machine/Lifecycle.lean ====
section
/-! DEFINITION. Construction (spec/40_lifecycle.md, R61 and R62). -/

namespace Sys2Proof.Machine

/-- CREATE `capacity`: the block built with that capacity and reset, or InvalidCapacity and no block where `capacity < 1`,
negative values included (R61, R62). `DATA_WIDTH` is 8 unless given (R8). -/
def create (capacity : Int) (dataWidth : Nat := 8) : Host.Outcome State Fault Refusal :=
  if _hc : capacity < 1 then .fault .invalidCapacity
  else if hw : dataWidth < 1 then .refused .illegalDataWidth
  else .next (State.initial ⟨capacity.toNat, dataWidth, by omega, by omega⟩)

end Sys2Proof.Machine
end

