-- ==== Sys2Proof/Machine/Listing.lean ====
section
/-! DEFINITION. The listing notation of R58, printed with decimal literals. It names commands and responses on paper only (D17). -/

namespace Sys2Proof.Machine

/-- The mnemonic of a command, as spec/opcode_table.json spells it (R58). -/
def mnemonic : Instr → String
  | .nop => "NOP"
  | .push _ => "PUSH"
  | .pushov _ => "PUSHOV"
  | .pop => "POP"
  | .peek _ => "PEEK"
  | .flush => "FLUSH"
  | .release => "RELEASE"
  | .illegal => "ILLEGAL"

/-- One command line of a listing (R58). -/
def listing (i : Instr) : String :=
  match i with
  | .nop => mnemonic i
  | .push din => mnemonic i ++ " " ++ toString din
  | .pushov din => mnemonic i ++ " " ++ toString din
  | .pop => mnemonic i
  | .peek offset => mnemonic i ++ " " ++ toString offset
  | .flush => mnemonic i
  | .release => mnemonic i
  | .illegal => mnemonic i

/-- The name of a status in a listing (R53, R58). -/
def statusName : Status → String
  | .ok => "OK"
  | .bufferFull => "BUFFER_FULL"
  | .bufferEmpty => "BUFFER_EMPTY"
  | .outOfRange => "OUT_OF_RANGE"
  | .illegalCommand => "ILLEGAL_COMMAND"

/-- A response of a listing, `dout` only where it is defined (R55, R58). -/
def responseListing (st : Status) (dout : Option Nat) : String :=
  match dout with
  | none => "-> " ++ statusName st
  | some v => "-> " ++ statusName st ++ ", dout=" ++ toString v

end Sys2Proof.Machine
end

