-- ==== Sys2Proof/Machine/Register.lean ====
section
/-! DEFINITION. The register-level rules as a machine of their own over `(storage, rd_ptr, wr_ptr, cnt)`: it never sees `head`
or `tail` (R22, R64, R74, R77, R82, R85, R90). -/

namespace Sys2Proof.Machine

/-- What a register-level rule gives: the registers and storage after the edge, the status, and `dout` where R55 defines it. -/
structure RegisterResult where
  storage : Memory
  regs : Registers
  status : Status
  dout : Option Nat
deriving DecidableEq, Repr

/-- PUSH, register level (R74). -/
def registerPush (c : Config) (din : Nat) (m : Memory) (r : Registers) : RegisterResult :=
  if r.cnt = c.capacity then ⟨m, r, .bufferFull, none⟩
  else ⟨Memory.write m r.wrPtr din, ⟨r.rdPtr, inc c.capacity r.wrPtr, r.cnt + 1⟩, .ok, none⟩

/-- PUSHOV, register level (R77). -/
def registerPushov (c : Config) (din : Nat) (m : Memory) (r : Registers) : RegisterResult :=
  let rd := if r.cnt = c.capacity then inc c.capacity r.rdPtr else r.rdPtr
  let n := if r.cnt = c.capacity then r.cnt else r.cnt + 1
  ⟨Memory.write m r.wrPtr din, ⟨rd, inc c.capacity r.wrPtr, n⟩, .ok, none⟩

/-- POP, register level (R82). -/
def registerPop (c : Config) (m : Memory) (r : Registers) : RegisterResult :=
  if r.cnt = 0 then ⟨m, r, .bufferEmpty, none⟩
  else ⟨m, ⟨inc c.capacity r.rdPtr, r.wrPtr, r.cnt - 1⟩, .ok, some (Memory.element c.dataWidth m r.rdPtr)⟩

/-- PEEK, register level (R85). -/
def registerPeek (c : Config) (offset : Nat) (m : Memory) (r : Registers) : RegisterResult :=
  if r.cnt ≤ offset then ⟨m, r, .outOfRange, none⟩
  else ⟨m, r, .ok, some (Memory.element c.dataWidth m (addWrap c.capacity r.rdPtr offset))⟩

/-- FLUSH, register level (R90). -/
def registerFlush (m : Memory) (r : Registers) : RegisterResult := ⟨m, ⟨r.wrPtr, r.wrPtr, 0⟩, .ok, none⟩

/-- RELEASE, register level (R64). -/
def registerRelease (m : Memory) : RegisterResult := ⟨m, ⟨0, 0, 0⟩, .ok, none⟩

/-- Every command at register level (R22). -/
def registerExec (c : Config) (i : Instr) (m : Memory) (r : Registers) : RegisterResult :=
  match i with
  | .nop => ⟨m, r, .ok, none⟩
  | .push din => registerPush c din m r
  | .pushov din => registerPushov c din m r
  | .pop => registerPop c m r
  | .peek offset => registerPeek c offset m r
  | .flush => registerFlush m r
  | .release => registerRelease m
  | .illegal => ⟨m, r, .illegalCommand, none⟩

end Sys2Proof.Machine
end

