-- ==== Sys2Proof/Machine/Run.lean ====
section
/-! DEFINITION. What a requester sees of a run (R12, R47): the Moore outputs of every cycle, which show the state before its
command, and the Mealy outputs that answer it, `dout` only where R55 defines it. -/

namespace Sys2Proof.Machine

/-- The response of a cycle as a claim may read it: nothing for a reset cycle (R113), the status, and `dout` only for a POP or
PEEK with status OK (R55, R120). -/
def visibleResponse (x : Input) (r : Option Response) : Option (Status × Option Nat) :=
  if x.rst then none
  else r.map fun a =>
    (a.status,
      if (decodeCommand x.command).returnsElement && decide (a.status = .ok) then some a.dout else none)

/-- The outputs of one cycle (R46, R47). -/
structure CycleOutputs where
  moore : Moore
  response : Option (Status × Option Nat)
deriving DecidableEq, Repr

/-- The outputs of the cycle that leads from `s` to `t`. -/
def cycleOutputs (s t : State) : CycleOutputs := ⟨s.moore, visibleResponse s.presented t.response⟩

/-- The outputs of the next `n` cycles and the state they lead to (R12). -/
def observe : Nat → State → List CycleOutputs × State
  | 0, s => ([], s)
  | n + 1, s =>
    match step s with
    | .next t => ((cycleOutputs s t :: (observe n t).1), (observe n t).2)
    | .fault _ => ([], s)
    | .refused _ => ([], s)

/-- The state with the given inputs pending. -/
def State.withInputs (s : State) (xs : List Input) : State := { s with inputs := xs }

/-- A run of the inputs from a state (R12). -/
def runInputs (s : State) (xs : List Input) : List CycleOutputs × State := observe xs.length (s.withInputs xs)

end Sys2Proof.Machine
end

