-- ==== Sys2Proof/Safety.lean ====
section
/-! DEFINITION. The terms claims use: the invariant, the refinement relation, the queue a state holds and the queue a FIFO
should hold, the inserts of a lifetime, and when two states look the same. -/

namespace Sys2Proof.Machine

/-- The register state represents the abstract state (R22). The storage is one and the same field. -/
def State.Represented (s : State) : Prop :=
  s.regs.rdPtr = s.tail % s.config.capacity ∧
  s.regs.wrPtr = s.head % s.config.capacity ∧
  s.regs.cnt = s.head - s.tail

/-- The invariant of a block that has been reset (R19, R22, R30, R38), with the bounds of the ports (R46). -/
structure State.Inv (s : State) : Prop where
  /-- `0 <= head - tail <= CAPACITY` (R19 invariant 1). -/
  tail_le_head : s.tail ≤ s.head
  head_le : s.head ≤ s.tail + s.config.capacity
  /-- R22. -/
  represented : s.Represented
  /-- The storage list is in canonical form, its slots exist and hold `DATA_WIDTH` bits (R14, R38). -/
  storage_wf : Memory.wf s.storage = true
  storage_fits : Memory.fits s.config s.storage = true
  /-- Every live slot has been written (R30, R45). -/
  live_written : ∀ p, p < s.count → (Memory.read s.storage (s.slotOf p)).isSome
  /-- The requester drives values the ports can carry (R46). -/
  inputs_fit : ∀ x ∈ s.inputs, x.fits s.config = true
  /-- `dout` is `DATA_WIDTH` bits, defined or not (R46). -/
  response_fits : ∀ r ∈ s.response, r.dout < 2 ^ s.config.dataWidth

/-- The state of the block itself is the same: parameters, storage, counters, registers. What is recorded of the last cycle,
the draw counter and the inputs to come may differ. -/
def State.SameBlock (s t : State) : Prop :=
  s.config = t.config ∧ s.storage = t.storage ∧ s.head = t.head ∧ s.tail = t.tail ∧ s.regs = t.regs

/-- As `SameBlock`, but the storage agrees on the slots of live elements only (R30). -/
def State.SameLive (s t : State) : Prop :=
  s.config = t.config ∧ s.head = t.head ∧ s.tail = t.tail ∧ s.regs = t.regs ∧
  ∀ p, p < s.count → Memory.read s.storage (s.slotOf p) = Memory.read t.storage (s.slotOf p)

/-- The cycle that led here answered with this status; nothing is said of `dout`. -/
def State.Answers (t : State) (st : Status) : Prop := ∃ r, t.response = some r ∧ r.status = st

/-- The cycle that led here answered OK with this element on `dout`. -/
def State.Returns (t : State) (v : Nat) : Prop := t.response = some ⟨.ok, v⟩

/-- `t` is `s` with a command answered by this status and nothing else changed: every slot, counter and register, the
parameters and the inputs to come are as before; `dout` is some `DATA_WIDTH`-bit value of which nothing is said (R103). -/
def State.OnlyAnswers (s t : State) (st : Status) : Prop :=
  ∃ d n, d < 2 ^ s.config.dataWidth ∧ t = { s with response := some ⟨st, d⟩, draws := n }

/-- `live(i)`, the element at logical position `i` (R45). -/
def State.live (s : State) (i : Nat) : Nat := s.memRead (s.slotOf i)

/-- The live elements, oldest first. -/
def State.queue (s : State) : List Nat := (List.range s.count).map s.live

/-- What a bounded FIFO queue does with a command, over a plain list, oldest first: the list after it, the status, and the
element returned. It knows nothing of slots, counters or registers (R73, R76, R81, R84, R89, R92, R63, R93 as the requester
sees them). -/
def fifoExec (capacity : Nat) (i : Instr) (q : List Nat) : List Nat × Status × Option Nat :=
  match i with
  | .nop => (q, .ok, none)
  | .push din => if q.length = capacity then (q, .bufferFull, none) else (q ++ [din], .ok, none)
  | .pushov din => if q.length = capacity then (q.tail ++ [din], .ok, none) else (q ++ [din], .ok, none)
  | .pop =>
    match q with
    | [] => ([], .bufferEmpty, none)
    | v :: rest => (rest, .ok, some v)
  | .peek offset =>
    match q[offset]? with
    | none => (q, .outOfRange, none)
    | some v => (q, .ok, some v)
  | .flush => ([], .ok, none)
  | .release => ([], .ok, none)
  | .illegal => (q, .illegalCommand, none)

/-- The Moore outputs a bounded FIFO queue shows: its length, the room left, full, empty (R46, R67 to R70). -/
def fifoMoore (capacity : Nat) (q : List Nat) : Moore :=
  ⟨q.length, capacity - q.length, decide (q.length = capacity), q.isEmpty⟩

/-- One cycle of the queue, the list after it and the outputs of the cycle: the Moore outputs show the list before the command
(R47); a reset empties the list and answers nothing (R112, R113). -/
def fifoCycle (capacity : Nat) (x : Input) (q : List Nat) : List Nat × CycleOutputs :=
  if x.rst then ([], ⟨fifoMoore capacity q, none⟩)
  else
    let r := fifoExec capacity (decodeCommand x.command) q
    (r.1, ⟨fifoMoore capacity q, some r.2⟩)

/-- The outputs of every cycle and the final list of a run of the queue. -/
def fifoRun (capacity : Nat) : List Input → List Nat → List CycleOutputs × List Nat
  | [], q => ([], q)
  | x :: xs, q =>
    let c := fifoCycle capacity x q
    let rest := fifoRun capacity xs c.1
    (c.2 :: rest.1, rest.2)

/-- The accepted inserts of the current lifetime after one more cycle, in order: reset and RELEASE begin a new lifetime, a
refused PUSH is not among them (R45). -/
def insertsAfter (s : State) (x : Input) (v : List Nat) : List Nat :=
  if x.rst then []
  else
    match decodeCommand x.command with
    | .nop => v
    | .push din => if s.full then v else v ++ [din]
    | .pushov din => v ++ [din]
    | .pop => v
    | .peek _ => v
    | .flush => v
    | .release => []
    | .illegal => v

/-- `v` lists the accepted inserts of the lifetime, and the slots of the last `CAPACITY` of them hold them (R45). -/
def State.Holds (s : State) (v : List Nat) : Prop :=
  v.length = s.head ∧
  ∀ k, k < s.head → s.head ≤ k + s.config.capacity → Memory.read s.storage (k % s.config.capacity) = v[k]?

/-- Is this input a NOP without reset (R92)? -/
def Input.isNop (x : Input) : Bool := !x.rst && decide (x.command.cmd = 0)

/-- The input's command, nothing in a reset cycle (R113). -/
def Input.instr (x : Input) : Option Instr := if x.rst then none else some (decodeCommand x.command)

end Sys2Proof.Machine
end

