-- ==== Sys2Proof/Certificates/Slice0/Obligations.lean ====
section
/-! DEFINITION. The statements for the provers. Each docstring names the rule of spec/ it formalises. A free value
(`dout` where it is "any value", a slot never written) stands in no conclusion but by its width. -/

open Sys2Proof Sys2Proof.Machine

/-! ### Encoding -/

/-- R57: the canonical word of every command with operands the ports carry, in every configuration, has `3 + CNT_W + DATA_WIDTH`
bits and decodes to that command. -/
def Obligations.CommandWordRoundTrip : Prop :=
  ∀ (c : Config) (i : Instr), i.wellFormed c = true →
    encode c i < 2 ^ c.wordWidth ∧ decodeWord c (encode c i) = .ok i

/-- R57, R51: every word of the configuration's width decodes, to a command its ports carry, whose code is the word's top three
bits; a wider number is no word (the model's choice, log 11); and a word whose ignored fields are 0 is the canonical word of
what it decodes to. -/
def Obligations.EveryCommandWordDecodes : Prop :=
  ∀ (c : Config) (w : Nat),
    (w < 2 ^ c.wordWidth → ∃ i, decodeWord c w = .ok i ∧ i.wellFormed c = true ∧
      i.opcode.toNat = w / 2 ^ (c.cntWidth + c.dataWidth) ∧
      (i.offsetField = (splitWord c w).offset → i.dinField = (splitWord c w).din → encode c i = w)) ∧
    (2 ^ c.wordWidth ≤ w → decodeWord c w = .error .wordTooWide)

/-- R51: decoding is total and the choice of command is a function of `cmd[2:0]` alone; with `rst = 1` the step is a reset
whatever the command is. -/
def Obligations.DecodingDependsOnCmdAlone : Prop :=
  (∀ x : Command, (decodeCommand x).opcode = x.cmd) ∧
  (∀ (s : State) (x : Command) (rest : List Input),
    step (s.withInputs (⟨true, x⟩ :: rest)) = .next (s.withInputs rest).resetEdge)

/-- R57, R58, V11: command words written out from the spec's encoding, for the configurations `CAPACITY = 4, 3, 1` with
`DATA_WIDTH = 8`, decode to the commands they stand for. -/
def Obligations.SpecWordsDecode : Prop :=
  decodeWord ⟨4, 8, by decide, by decide⟩ 0b00000000000000 = .ok .nop ∧
  decodeWord ⟨4, 8, by decide, by decide⟩ 0b00100001000001 = .ok (.push 0x41) ∧
  decodeWord ⟨3, 8, by decide, by decide⟩ 0b0100000000100 = .ok (.pushov 0x04) ∧
  decodeWord ⟨4, 8, by decide, by decide⟩ 0b01110111111111 = .ok .pop ∧
  decodeWord ⟨4, 8, by decide, by decide⟩ 0b10001000000000 = .ok (.peek 2) ∧
  decodeWord ⟨3, 8, by decide, by decide⟩ 0b1010000000000 = .ok .flush ∧
  decodeWord ⟨3, 8, by decide, by decide⟩ 0b1100000000000 = .ok .release ∧
  decodeWord ⟨4, 8, by decide, by decide⟩ 0b11100000000000 = .ok .illegal ∧
  decodeWord ⟨1, 8, by decide, by decide⟩ 0b010011001100 = .ok (.pushov 0xCC)

/-- R48: a field a command ignores may carry any value and has no effect on the state or on any output (U11: it is no draw, the
step function is constant in it). -/
def Obligations.IgnoredFieldsHaveNoEffect : Prop :=
  ∀ (s : State) (x y : Input) (rest : List Input), x.rst = y.rst → x.command.cmd = y.command.cmd →
    (x.command.cmd = 4 → x.command.offset = y.command.offset) →
    (x.command.cmd = 1 ∨ x.command.cmd = 2 → x.command.din = y.command.din) →
    step (s.withInputs (x :: rest)) = step (s.withInputs (y :: rest)) ∧
    ∀ n, (observe n (s.withInputs (x :: rest))).1 = (observe n (s.withInputs (y :: rest))).1

/-! ### The step, reset and construction -/

/-- R11, R28, R47: a step executes the command that is on the ports in that cycle, and takes that input; a cycle in which the
requester presents none is NOP (R92; the model's choice of form, log 2); a word placed by `withFetchWord` is what the next step runs. -/
def Obligations.StepRunsThePresentedCommand : Prop :=
  (∀ (s : State) (x : Command) (rest : List Input),
    step (s.withInputs (⟨false, x⟩ :: rest)) = exec (decodeCommand x) (s.withInputs rest)) ∧
  (∀ s : State, step (s.withInputs []) = exec .nop (s.withInputs [])) ∧
  (∀ (s : State) (nbits w : Nat) (i : Instr), decodeTableWord nbits w = some i →
    step (s.withFetchWord nbits w) = exec i (s.withInputs s.inputs.tail))

/-- R11, R105, R126: every step is enabled in every state: it ends in a next state, never in a fault or a refusal; it takes one
input, and no command and no reset changes the parameters (R7). -/
def Obligations.EveryStepIsEnabled : Prop :=
  ∀ s : State, ∃ t, step s = .next t ∧ t.inputs = s.inputs.tail ∧ t.config = s.config

/-- R112: at an edge with `rst == 1` the counters and registers become 0, the storage is not written, the state of the block is
the post-construction state but for the stored bits, whatever `cmd`, `din` and `offset` are, and reset is idempotent. -/
def Obligations.ResetGivesTheEmptyBuffer : Prop :=
  ∀ (s : State) (x : Command) (rest : List Input), ∃ t,
    step (s.withInputs (⟨true, x⟩ :: rest)) = .next t ∧
    t.head = 0 ∧ t.tail = 0 ∧ t.regs.rdPtr = 0 ∧ t.regs.wrPtr = 0 ∧ t.regs.cnt = 0 ∧
    t.storage = s.storage ∧ t.config = s.config ∧ t.inputs = rest ∧
    t.moore = (State.initial s.config).moore ∧ t.regs = (State.initial s.config).regs ∧
    t.queue = [] ∧
    ∀ y, step (t.withInputs [⟨true, y⟩]) = .next (t.withInputs [])

/-- R61, R62, R96: CREATE fails with InvalidCapacity exactly when `capacity < 1`, negative values included, and otherwise builds
a block of that capacity with `head = tail = 0`, `count = 0`, `remaining = CAPACITY`, `empty = 1`, `full = 0`. That a legal
capacity with `DATA_WIDTH < 1` is refused by a name of its own is the model's choice (R8, log 12). -/
def Obligations.CreateBuildsAnEmptyBlockOrFails : Prop :=
  ∀ (capacity : Int) (dataWidth : Nat),
    (capacity < 1 → create capacity dataWidth = .fault .invalidCapacity) ∧
    (1 ≤ capacity → dataWidth < 1 → create capacity dataWidth = .refused .illegalDataWidth) ∧
    (1 ≤ capacity → 1 ≤ dataWidth → ∃ t, create capacity dataWidth = .next t ∧
      (t.config.capacity : Int) = capacity ∧ t.config.dataWidth = dataWidth ∧ t.head = 0 ∧ t.tail = 0 ∧
      t.moore = ⟨0, t.config.capacity, false, true⟩ ∧ t.Inv)

/-- R31: the state after construction meets the invariant, in every configuration, and shows `count = 0`,
`remaining = CAPACITY`, `empty = 1`, `full = 0`; so does the state after reset of this model. -/
def Obligations.ResetMeetsTheInvariant : Prop :=
  (∀ c : Config, (State.initial c).Inv ∧ (State.initial c).moore = ⟨0, c.capacity, false, true⟩ ∧
    (State.initial c).regs = ⟨0, 0, 0⟩) ∧
  State.reset.Inv

/-! ### What each command does -/

/-- R92: NOP answers OK and changes nothing; and a run with NOPs inserted anywhere has the same responses to its other commands
and the same final state as the run without them. -/
def Obligations.NopChangesNothing : Prop :=
  (∀ off din, decodeCommand ⟨0, off, din⟩ = .nop) ∧
  (∀ s : State, ∃ t, exec .nop s = .next t ∧ s.OnlyAnswers t .ok) ∧
  (∀ (s : State) (xs : List Input),
    (((xs.zip (runInputs s xs).1).filter fun p => !p.1.isNop).map Prod.snd
      = (runInputs s (xs.filter fun x => !x.isNop)).1) ∧
    (runInputs s xs).2.SameBlock (runInputs s (xs.filter fun x => !x.isNop)).2)

/-- R73: PUSH is refused with BufferFull exactly when the buffer is full, and then nothing changes; otherwise the element is
stored at `head mod CAPACITY`, every other slot reads as before, `head` advances with `wr_ptr` and `cnt`, `tail` and `rd_ptr` stay, and the flags follow. -/
def Obligations.PushStoresOrRefuses : Prop :=
  (∀ off din, decodeCommand ⟨1, off, din⟩ = .push din) ∧
  ∀ (s : State) (din : Nat),
    (s.head - s.tail = s.config.capacity → ∃ t, exec (.push din) s = .next t ∧ s.OnlyAnswers t .bufferFull) ∧
    (s.head - s.tail ≠ s.config.capacity → ∃ t, exec (.push din) s = .next t ∧ t.Answers .ok ∧
      t.head = s.head + 1 ∧ t.tail = s.tail ∧
      (∀ a, Memory.read t.storage a = if a = s.head % s.config.capacity then some din else Memory.read s.storage a) ∧
      t.regs = ⟨s.regs.rdPtr, inc s.config.capacity s.regs.wrPtr, s.regs.cnt + 1⟩ ∧
      t.config = s.config ∧ t.inputs = s.inputs ∧
      (s.tail ≤ s.head → t.count = s.count + 1 ∧ t.empty = false ∧ (t.full = true ↔ t.count = s.config.capacity)))

/-- R76: PUSHOV always succeeds; on a full buffer `tail` advances in the same step; the element is stored at
`head mod CAPACITY` of the head before the step, every other slot reads as before; a buffer that was full is full after it. -/
def Obligations.PushovAlwaysStores : Prop :=
  (∀ off din, decodeCommand ⟨2, off, din⟩ = .pushov din) ∧
  ∀ (s : State) (din : Nat), ∃ t, exec (.pushov din) s = .next t ∧ t.Answers .ok ∧
    t.head = s.head + 1 ∧ t.tail = (if s.head - s.tail = s.config.capacity then s.tail + 1 else s.tail) ∧
    (∀ a, Memory.read t.storage a = if a = s.head % s.config.capacity then some din else Memory.read s.storage a) ∧
    t.regs = (if s.head - s.tail = s.config.capacity
      then ⟨inc s.config.capacity s.regs.rdPtr, inc s.config.capacity s.regs.wrPtr, s.regs.cnt⟩
      else ⟨s.regs.rdPtr, inc s.config.capacity s.regs.wrPtr, s.regs.cnt + 1⟩) ∧
    t.config = s.config ∧ t.inputs = s.inputs ∧
    (s.tail ≤ s.head → t.empty = false ∧ (t.full = true ↔ t.count = s.config.capacity) ∧
      (s.full = true → t.full = true))

/-- R81: POP is refused with BufferEmpty exactly when `head == tail`, and then nothing changes; otherwise it returns the live
element at `tail mod CAPACITY`, which has been written, advances `tail` and changes no slot and no `head`. -/
def Obligations.PopReturnsTheOldest : Prop :=
  (∀ off din, decodeCommand ⟨3, off, din⟩ = .pop) ∧
  ∀ s : State,
    (s.head = s.tail → ∃ t, exec .pop s = .next t ∧ s.OnlyAnswers t .bufferEmpty) ∧
    (s.head ≠ s.tail → ∃ t v, exec .pop s = .next t ∧
      t = { s with
        tail := s.tail + 1
        regs := ⟨inc s.config.capacity s.regs.rdPtr, s.regs.wrPtr, s.regs.cnt - 1⟩
        response := some ⟨.ok, v⟩ } ∧
      (s.Inv → Memory.read s.storage (s.tail % s.config.capacity) = some v ∧ t.count + 1 = s.count ∧
        t.full = false ∧ (t.empty = true ↔ t.count = 0)))

/-- R84: PEEK is refused with OutOfRange exactly when `offset >= head - tail`; otherwise it returns the element at
`(tail + offset) mod CAPACITY`, which has been written; nothing changes in either case, a second PEEK of the same offset
returns the same (R40), and `PEEK 0` returns what POP returns. -/
def Obligations.PeekInspectsWithoutChange : Prop :=
  (∀ off din, decodeCommand ⟨4, off, din⟩ = .peek off) ∧
  ∀ (s : State) (offset : Nat),
    (s.head - s.tail ≤ offset → ∃ t, exec (.peek offset) s = .next t ∧ s.OnlyAnswers t .outOfRange) ∧
    (offset < s.head - s.tail → ∃ t v, exec (.peek offset) s = .next t ∧
      t = { s with response := some ⟨.ok, v⟩ } ∧ exec (.peek offset) t = .next t ∧
      (s.Inv → Memory.read s.storage ((s.tail + offset) % s.config.capacity) = some v) ∧
      (offset = 0 → ∃ u, exec .pop s = .next u ∧ u.Returns v))

/-- R89: FLUSH sets `tail` to `head`, keeps `head` and every slot bit for bit, answers OK and leaves the buffer empty; on an
empty buffer it changes nothing; it is idempotent (R91). -/
def Obligations.FlushEmptiesAndKeepsHead : Prop :=
  (∀ off din, decodeCommand ⟨5, off, din⟩ = .flush) ∧
  ∀ s : State, ∃ t, exec .flush s = .next t ∧ t.Answers .ok ∧
    t.config = s.config ∧ t.storage = s.storage ∧ t.head = s.head ∧ t.tail = s.head ∧ t.inputs = s.inputs ∧
    t.regs = ⟨s.regs.wrPtr, s.regs.wrPtr, 0⟩ ∧ t.moore = ⟨0, s.config.capacity, false, true⟩ ∧
    (s.Inv → s.empty = true → t.SameBlock s) ∧
    (∃ u, exec .flush t = .next u ∧ u.SameBlock t)

/-- R91: FLUSH differs from `count` successive POPs only in that it returns nothing. -/
def Obligations.FlushIsCountPops : Prop :=
  ∀ s : State, s.Inv → ∃ t, exec .flush s = .next t ∧
    (runInputs s (List.replicate s.count (Input.ofInstr .pop))).2.SameBlock t

/-- R63: RELEASE sets `head` and `tail` to 0, writes no slot, keeps `CAPACITY`, answers OK and leaves the buffer empty, and the
state of the block is the one a reset would have left; it is idempotent. -/
def Obligations.ReleaseZeroesTheCounters : Prop :=
  (∀ off din, decodeCommand ⟨6, off, din⟩ = .release) ∧
  ∀ s : State, ∃ t, exec .release s = .next t ∧ t.Answers .ok ∧
    t.config = s.config ∧ t.storage = s.storage ∧ t.head = 0 ∧ t.tail = 0 ∧ t.inputs = s.inputs ∧
    t.moore = ⟨0, s.config.capacity, false, true⟩ ∧ t.SameBlock s.resetEdge ∧
    (∃ u, exec .release t = .next u ∧ u.SameBlock t)

/-- R93, R100: the reserved code raises IllegalCommand in every state and changes nothing. -/
def Obligations.ReservedCodeIsReportedAndHarmless : Prop :=
  (∀ off din, decodeCommand ⟨7, off, din⟩ = .illegal) ∧
  ∀ s : State, ∃ t, exec .illegal s = .next t ∧ s.OnlyAnswers t .illegalCommand

/-! ### The register level -/

/-- R74, R77: PUSH and PUSHOV at register level, from a state whose registers represent the counters. -/
def Obligations.InsertRegisterLevel : Prop :=
  ∀ (s : State) (din : Nat), s.Inv →
    (s.regs.cnt = s.config.capacity → ∃ t, exec (.push din) s = .next t ∧ s.OnlyAnswers t .bufferFull) ∧
    (s.regs.cnt ≠ s.config.capacity → ∃ t, exec (.push din) s = .next t ∧ t.Answers .ok ∧
      t.storage = Memory.write s.storage s.regs.wrPtr din ∧
      t.regs = ⟨s.regs.rdPtr, inc s.config.capacity s.regs.wrPtr, s.regs.cnt + 1⟩ ∧ t.regs.cnt < 2 ^ s.config.cntWidth) ∧
    (∃ t, exec (.pushov din) s = .next t ∧ t.Answers .ok ∧
      t.storage = Memory.write s.storage s.regs.wrPtr din ∧
      t.regs = (if s.regs.cnt = s.config.capacity
        then ⟨inc s.config.capacity s.regs.rdPtr, inc s.config.capacity s.regs.wrPtr, s.regs.cnt⟩
        else ⟨s.regs.rdPtr, inc s.config.capacity s.regs.wrPtr, s.regs.cnt + 1⟩))

/-- R82, R85: POP and PEEK at register level; PEEK addresses the storage by `add_wrap(rd_ptr, offset)`. -/
def Obligations.RemoveRegisterLevel : Prop :=
  ∀ (s : State) (offset : Nat), s.Inv →
    (s.regs.cnt = 0 → ∃ t, exec .pop s = .next t ∧ s.OnlyAnswers t .bufferEmpty) ∧
    (s.regs.cnt ≠ 0 → ∃ t v, exec .pop s = .next t ∧ Memory.read s.storage s.regs.rdPtr = some v ∧ t.Returns v ∧
      t.storage = s.storage ∧ t.regs = ⟨inc s.config.capacity s.regs.rdPtr, s.regs.wrPtr, s.regs.cnt - 1⟩) ∧
    (s.regs.cnt ≤ offset → ∃ t, exec (.peek offset) s = .next t ∧ s.OnlyAnswers t .outOfRange) ∧
    (offset < s.regs.cnt → ∃ t v, exec (.peek offset) s = .next t ∧
      Memory.read s.storage (addWrap s.config.capacity s.regs.rdPtr offset) = some v ∧ t.Returns v ∧
      t.storage = s.storage ∧ t.regs = s.regs)

/-- R64, R90: RELEASE and FLUSH at register level. -/
def Obligations.ReleaseAndFlushRegisterLevel : Prop :=
  ∀ s : State,
    (∃ t, exec .release s = .next t ∧ t.regs = ⟨0, 0, 0⟩ ∧ t.storage = s.storage) ∧
    (∃ t, exec .flush s = .next t ∧ t.regs = ⟨s.regs.wrPtr, s.regs.wrPtr, 0⟩ ∧ t.storage = s.storage)

/-- R22: the post-reset registers represent the post-reset counters, and for every command, if the registers represent the
counters before the step, the register-level rule (a machine over `storage`, `rd_ptr`, `wr_ptr`, `cnt` alone) gives the same
status, the same `dout` wherever it is defined, the same storage, registers that represent the new counters, and the same flag
and count outputs. -/
def Obligations.RegisterMachineRefinesCounters : Prop :=
  (∀ c : Config, (State.initial c).Represented) ∧
  ∀ (s : State) (i : Instr), s.Inv → ∃ t, exec i s = .next t ∧
    let r := registerExec s.config i s.storage s.regs
    t.Answers r.status ∧ (∀ v, r.dout = some v → t.Returns v) ∧
      (i.returnsElement = true → r.status = .ok → r.dout.isSome) ∧
      t.storage = r.storage ∧ t.regs = r.regs ∧ t.Represented ∧ t.moore = r.regs.moore s.config.capacity

/-! ### The whole machine -/

/-- R15: `head` increases by exactly 1 on each successful PUSH and on each PUSHOV, is set to 0 by reset and RELEASE, and is
changed by nothing else. -/
def Obligations.HeadChangesOnlyByInsertsResetRelease : Prop :=
  ∀ s : State, ∃ t, step s = .next t ∧
    t.head = match s.presented.instr with
      | none => 0
      | some (.push _) => if s.full then s.head else s.head + 1
      | some (.pushov _) => s.head + 1
      | some .release => 0
      | some .nop | some .pop | some (.peek _) | some .flush | some .illegal => s.head

/-- R16: `tail` increases by exactly 1 on each successful POP and on each PUSHOV executed while the buffer is full; FLUSH sets it
to `head`; reset and RELEASE set it to 0; nothing else changes it. -/
def Obligations.TailChangesOnlyByRemovalsFlushResetRelease : Prop :=
  ∀ s : State, ∃ t, step s = .next t ∧
    t.tail = match s.presented.instr with
      | none => 0
      | some .pop => if s.empty then s.tail else s.tail + 1
      | some (.pushov _) => if s.full then s.tail + 1 else s.tail
      | some .flush => s.head
      | some .release => 0
      | some .nop | some (.push _) | some (.peek _) | some .illegal => s.tail

/-- R39, R41: a step changes at most the slot `head mod CAPACITY`, and only where it is an accepted PUSH or a PUSHOV, which
stores its element there; reset writes nothing. -/
def Obligations.StorageIsWrittenOnlyByInserts : Prop :=
  ∀ s : State, ∃ t, step s = .next t ∧
    ∀ a, Memory.read t.storage a = match s.presented.instr with
      | some (.push din) =>
        if s.full = false ∧ a = s.head % s.config.capacity then some din else Memory.read s.storage a
      | some (.pushov din) => if a = s.head % s.config.capacity then some din else Memory.read s.storage a
      | none | some .nop | some .pop | some (.peek _) | some .flush | some .release | some .illegal =>
        Memory.read s.storage a

/-- R97 to R100: each failure is raised by one command alone and exactly under its one condition before the step; every other
cycle with `rst = 0` answers OK (R101: NOP, PUSHOV, FLUSH and RELEASE cannot fail). -/
def Obligations.EachFailureHasOneCause : Prop :=
  ∀ (s : State) (i : Instr), ∃ t, exec i s = .next t ∧
    (t.Answers .bufferFull ↔ (∃ din, i = .push din) ∧ s.full = true) ∧
    (t.Answers .bufferEmpty ↔ i = .pop ∧ s.empty = true) ∧
    (t.Answers .outOfRange ↔ ∃ k, i = .peek k ∧ s.count ≤ k) ∧
    (t.Answers .illegalCommand ↔ i = .illegal) ∧
    (t.Answers .ok ↔ ¬(t.Answers .bufferFull ∨ t.Answers .bufferEmpty ∨ t.Answers .outOfRange ∨ t.Answers .illegalCommand))

/-- R101: NOP, PUSHOV, FLUSH and RELEASE always return OK, in every state. -/
def Obligations.TotalCommandsAlwaysAnswerOk : Prop :=
  ∀ (s : State) (i : Instr), (i = .nop ∨ (∃ din, i = .pushov din) ∨ i = .flush ∨ i = .release) →
    ∃ t, exec i s = .next t ∧ t.Answers .ok

/-- R87: PEEK on an empty buffer fails with OutOfRange for every offset, including 0, and changes nothing. -/
def Obligations.PeekOnEmptyIsOutOfRange : Prop :=
  ∀ (s : State) (offset : Nat), s.empty = true →
    ∃ t, exec (.peek offset) s = .next t ∧ s.OnlyAnswers t .outOfRange

/-- R105: a failing command changes no state of the block, and the commands that follow are executed as if the failure had not
happened: every later output is the same as without it. -/
def Obligations.FailuresArePreciseAndLeaveNoMark : Prop :=
  ∀ (s t : State) (st : Status), step s = .next t → t.Answers st → st ≠ .ok →
    t.SameBlock s ∧ t.inputs = s.inputs.tail ∧
    ∀ n, (observe n t).1 = (observe n s.afterFetch).1 ∧ (observe n t).2.SameBlock (observe n s.afterFetch).2

/-- R53, R54: 5 to 7 are never produced; there are exactly five status values: the code of each is below 5, no two share a code,
and each of the codes 0 to 4 is the code of one. -/
def Obligations.StatusCodesFiveToSevenNeverAppear : Prop :=
  (∀ s : State, ∃ t, step s = .next t ∧ ∀ r ∈ t.response, r.status.code.toNat < 5) ∧
  (∀ st : Status, st.code.toNat < 5) ∧ (∀ a b : Status, a.code = b.code → a = b) ∧
  (∀ n, n < 5 → ∃ st : Status, st.code.toNat = n)

/-- R79: PUSHOV on a buffer that is not full behaves exactly as an accepted PUSH of the same element: both answer OK and leave the
same storage, counters and registers (of `dout`, which neither defines, nothing is said). R78: on a full buffer it writes the very slot of the oldest element; the count stays `CAPACITY`, the new element becomes the newest, each other live
element moves one position towards the front, and the two pointers are equal again. -/
def Obligations.PushovIsPushUnlessFull : Prop :=
  ∀ (s : State) (din : Nat), s.Inv →
    (s.full = false → ∃ t u, exec (.pushov din) s = .next t ∧ exec (.push din) s = .next u ∧
      t.Answers .ok ∧ u.Answers .ok ∧ t.SameBlock u ∧ t.inputs = s.inputs ∧ u.inputs = s.inputs) ∧
    (s.full = true → s.wrSlot = s.rdSlot ∧ ∃ t, exec (.pushov din) s = .next t ∧
      Memory.read t.storage s.rdSlot = some din ∧ t.count = s.config.capacity ∧
      t.live (s.config.capacity - 1) = din ∧ (∀ i, i + 1 < s.config.capacity → t.live i = s.live (i + 1)) ∧
      t.regs.rdPtr = t.regs.wrPtr)

/-- R80: with `CAPACITY = 1` a PUSHOV fills or replaces the single slot, `count` is 1 and both pointers are 0 after it, and a POP
then returns its element. -/
def Obligations.OneSlotBufferKeepsTheNewest : Prop :=
  ∀ (s : State) (din : Nat), s.Inv → s.config.capacity = 1 →
    ∃ t u, exec (.pushov din) s = .next t ∧ t.head = s.head + 1 ∧ t.tail = s.head ∧ t.count = 1 ∧
      t.regs.rdPtr = 0 ∧ t.regs.wrPtr = 0 ∧ t.queue = [din] ∧ exec .pop t = .next u ∧ u.Returns din ∧ u.queue = []

/-! ### Invariants -/

/-- R19, R22, R30, R38: every step keeps the invariant. -/
def Obligations.EveryStepKeepsTheInvariant : Prop :=
  ∀ s : State, s.Inv → ∃ t, step s = .next t ∧ t.Inv

/-- R19 invariant 2: `head` and `tail` never decrease but by a reset or a RELEASE. -/
def Obligations.CountersNeverDecreaseWithinALifetime : Prop :=
  ∀ s : State, s.Inv → s.presented.rst = false → decodeCommand s.presented.command ≠ .release →
    ∃ t, step s = .next t ∧ s.head ≤ t.head ∧ s.tail ≤ t.tail

/-- R23: the register ranges and `wr_ptr == (rd_ptr + cnt) mod CAPACITY`, after reset and after every step. -/
def Obligations.RegistersStayInRange : Prop :=
  (∀ s : State, s.Inv →
    ∃ t, step s = .next t ∧ t.regs.rdPtr < t.config.capacity ∧ t.regs.wrPtr < t.config.capacity ∧
      t.regs.cnt ≤ t.config.capacity ∧ t.regs.wrPtr = (t.regs.rdPtr + t.regs.cnt) % t.config.capacity) ∧
  ∀ c : Config, (State.initial c).regs.rdPtr < c.capacity ∧ (State.initial c).regs.wrPtr < c.capacity ∧
    (State.initial c).regs.cnt ≤ c.capacity ∧
    (State.initial c).regs.wrPtr = ((State.initial c).regs.rdPtr + (State.initial c).regs.cnt) % c.capacity

/-- R26: equal pointers mean empty or full; `cnt` tells them apart. -/
def Obligations.EqualPointersMeanEmptyOrFull : Prop :=
  ∀ s : State, s.Inv →
    (s.regs.wrPtr = s.regs.rdPtr ↔ s.regs.cnt = 0 ∨ s.regs.cnt = s.config.capacity) ∧
    (s.config.capacity = 1 → s.regs.wrPtr = 0 ∧ s.regs.rdPtr = 0) ∧
    s.empty = decide (s.regs.cnt = 0) ∧ s.full = decide (s.regs.cnt = s.config.capacity)

/-- R72: the relations of the queries, in every state that meets the invariant; `count` never exceeds `capacity` and never goes
negative, before and after every step. -/
def Obligations.QueryRelations : Prop :=
  ∀ s : State, s.Inv →
    s.count + s.remaining = s.config.capacity ∧
    (s.empty = true ↔ s.count = 0) ∧ (s.count = 0 ↔ s.remaining = s.config.capacity) ∧
    (s.full = true ↔ s.count = s.config.capacity) ∧ (s.count = s.config.capacity ↔ s.remaining = 0) ∧
    ¬(s.full = true ∧ s.empty = true) ∧
    (s.config.capacity = 1 → (s.full = true ↔ ¬s.empty = true)) ∧
    s.tail ≤ s.head ∧ s.count ≤ s.config.capacity ∧
    ∃ t, step s = .next t ∧ t.tail ≤ t.head ∧ t.count ≤ s.config.capacity

/-- R24, R25: the explicit wraps are `mod CAPACITY`, also where `CAPACITY` is not a power of two, a pointer stays below
`CAPACITY`, and the sum of `add_wrap` fits `CNT_W + 1` bits; with R9, `clog2` is the least sufficient width, slot indexes fit
`PTR_W` bits and counts fit `CNT_W` bits. -/
def Obligations.PointerArithmeticIsModular : Prop :=
  (∀ n w, clog2 n ≤ w ↔ n ≤ 2 ^ w) ∧
  ∀ (c : Config) (t k p : Nat),
    inc c.capacity (t % c.capacity) = (t + 1) % c.capacity ∧
    (k ≤ c.capacity → addWrap c.capacity (t % c.capacity) k = (t + k) % c.capacity) ∧
    (p < c.capacity → k ≤ c.capacity → p + k < 2 * c.capacity ∧ p + k < 2 ^ (c.cntWidth + 1)) ∧
    (p < c.capacity → inc c.capacity p < c.capacity ∧ p < 2 ^ c.ptrWidth) ∧ (k ≤ c.capacity → k < 2 ^ c.cntWidth)

/-- R45, R34: along every step, with `v` the accepted inserts of the lifetime in order, `v` has `head` elements, slot
`k mod CAPACITY` holds `v_k` for the last `CAPACITY` of them, and the live element at position `i` is `v_(tail + i)`. -/
def Obligations.StorageHoldsTheLastInserts : Prop :=
  (∀ c : Config, (State.initial c).Holds []) ∧
  (∀ (s : State) (v : List Nat), s.Holds v →
    ∃ t, step s = .next t ∧ t.Holds (insertsAfter s s.presented v)) ∧
  (∀ (s : State) (v : List Nat), s.Inv → s.Holds v → ∀ i, i < s.count → v[s.tail + i]? = some (s.live i))

/-! ### The queue, and what a requester can see -/

/-- R73 to R94: for every command the block answers and changes its queue of live elements exactly as a bounded FIFO list does. -/
def Obligations.EveryCommandActsAsOnAQueue : Prop :=
  ∀ (s : State) (i : Instr), s.Inv → ∃ t, exec i s = .next t ∧
    let r := fifoExec s.config.capacity i s.queue
    t.queue = r.1 ∧ t.Answers r.2.1 ∧ (∀ v, r.2.2 = some v → t.Returns v) ∧
      (i.returnsElement = true → r.2.1 = .ok → r.2.2.isSome)

/-- R12, R19 invariant 3, R43, R46, R47, R83: over every run of inputs the ports carry, resets among them, what a requester sees
of the block in every cycle (`count`, `remaining`, `full`, `empty`, the status, and `dout` where it is defined) is what it would
see of a bounded FIFO list, and the run leaves the list's elements in the block. -/
def Obligations.EveryRunActsAsOnAQueue : Prop :=
  ∀ (s : State) (xs : List Input), s.Inv → (∀ x ∈ xs, x.fits s.config = true) →
    (runInputs s xs).1 = (fifoRun s.config.capacity xs s.queue).1 ∧
    (runInputs s xs).2.queue = (fifoRun s.config.capacity xs s.queue).2

/-- R83: from an empty buffer, pushing `capacity` elements and popping `capacity` elements returns them in order and leaves the
buffer empty, for any capacity and any elements the port carries. -/
def Obligations.FillAndDrainReturnsElementsInOrder : Prop :=
  ∀ (s : State) (es : List Nat), s.Inv → s.empty = true → es.length = s.config.capacity →
    (∀ e ∈ es, e < 2 ^ s.config.dataWidth) →
    let run := runInputs s (es.map (fun e => Input.ofInstr (.push e)) ++ es.map fun _ => Input.ofInstr .pop)
    run.1.map CycleOutputs.response =
      es.map (fun _ => some (.ok, none)) ++ es.map (fun e => some (.ok, some e)) ∧
    run.2.empty = true

/-- R86: for `i < count`, `PEEK i` returns what the POP number `i + 1` returns if `i + 1` POPs follow with nothing in between. -/
def Obligations.PeekReturnsTheLaterPop : Prop :=
  ∀ (s : State) (i : Nat), s.Inv → i < s.count → ∃ t v, exec (.peek i) s = .next t ∧ t.Returns v ∧
    ((runInputs s (List.replicate (i + 1) (Input.ofInstr .pop))).1.map CycleOutputs.response)[i]? =
      some (some (.ok, some v))

/-- R30: the content of a slot that holds no live element cannot be observed: two states that differ in such slots only (and in
what was recorded of the last cycle) show the same outputs in every cycle of every run. -/
def Obligations.DeadSlotsAreNeverObserved : Prop :=
  ∀ (s t : State) (n : Nat), s.Inv → s.SameLive t → s.inputs = t.inputs →
    (observe n s).1 = (observe n t).1 ∧ (observe n s).2.SameLive (observe n t).2

/-- R65: RELEASE is idempotent, and no sequence of commands can tell a released block from a reset one; FLUSH keeps `head` where
RELEASE zeroes it. -/
def Obligations.ReleasedAndResetBlocksLookTheSame : Prop :=
  ∀ s : State, ∃ t u f, exec .release s = .next t ∧ exec .release t = .next u ∧ u.SameBlock t ∧
    (∀ xs, (runInputs t xs).1 = (runInputs s.resetEdge xs).1 ∧
      (runInputs t xs).2.SameBlock (runInputs s.resetEdge xs).2) ∧
    exec .flush s = .next f ∧ f.head = s.head ∧ t.head = 0 ∧ f.moore = t.moore ∧ f.storage = t.storage ∧
    f.wrSlot = s.head % s.config.capacity ∧ t.wrSlot = 0

/-- R43: commands execute in the order of their cycles; what a requester sees of a run is what it sees of its first part followed
by what it sees of the second part run from the state the first leaves, so no output depends on a later input. -/
def Obligations.RunsComposeInOrder : Prop :=
  ∀ (s : State) (xs ys : List Input),
    (runInputs s (xs ++ ys)).1 = (runInputs s xs).1 ++ (runInputs (runInputs s xs).2 ys).1 ∧
    (runInputs s (xs ++ ys)).2 = (runInputs (runInputs s xs).2 ys).2

/-- R47, R71: in cycle `k` of a run the outputs `count`, `remaining`, `full`, `empty` show the state that the inputs of the
cycles before it left, the state before the command of that cycle. -/
def Obligations.MooreOutputsShowTheStateBeforeTheCommand : Prop :=
  ∀ (s : State) (xs : List Input) (k : Nat), k < xs.length →
    ((runInputs s xs).1[k]?).map CycleOutputs.moore = some (runInputs s (xs.take k)).2.moore
end

