-- ==== Sys2Proof/Laws/Pointers.lean ====
section
/-! SUPPORT. The pointer arithmetic of R24 and R25 as plain `mod`, and the derived widths of R9. -/

namespace Sys2Proof

theorem clog2From_spec {n : Nat} : ∀ {fuel w : Nat}, n ≤ 2 ^ (w + fuel) → n ≤ 2 ^ clog2From n fuel w
  | 0, w, h => by simpa [clog2From] using h
  | fuel + 1, w, h => by
    unfold clog2From
    split
    · assumption
    · exact clog2From_spec (by simpa [Nat.add_assoc, Nat.add_comm 1 fuel] using h)

theorem clog2From_le {n k : Nat} (hk : n ≤ 2 ^ k) : ∀ {fuel w : Nat}, w ≤ k → clog2From n fuel w ≤ k
  | 0, w, h => by simpa [clog2From] using h
  | fuel + 1, w, h => by
    unfold clog2From
    split
    · exact h
    · next hn =>
      refine clog2From_le hk (Nat.lt_of_le_of_ne h fun e => hn ?_)
      rw [e]; exact hk

/-- `n <= 2^clog2(n)` (R9). -/
theorem le_two_pow_clog2 (n : Nat) : n ≤ 2 ^ clog2 n :=
  clog2From_spec (by simpa using Nat.lt_two_pow_self.le)

/-- `clog2(n)` is the least such width (R9). -/
theorem clog2_le {n k : Nat} (h : n ≤ 2 ^ k) : clog2 n ≤ k := clog2From_le h (Nat.zero_le k)

/-- A slot index fits `PTR_W` bits (R9, R21). -/
theorem Config.slot_lt_two_pow_ptrWidth (c : Config) {a : Nat} (h : a < c.capacity) : a < 2 ^ c.ptrWidth :=
  h.trans_le ((le_two_pow_clog2 _).trans (Nat.pow_le_pow_right (by decide) (le_max_right _ _)))

/-- A count fits `CNT_W` bits (R9, R49). -/
theorem Config.count_lt_two_pow_cntWidth (c : Config) {n : Nat} (h : n ≤ c.capacity) : n < 2 ^ c.cntWidth :=
  (Nat.lt_succ_of_le h).trans_le (le_two_pow_clog2 _)

namespace Machine

/-- `(h + 1) mod CAPACITY == inc(h mod CAPACITY)` (R24). -/
theorem inc_mod {capacity : Nat} (hc : 1 ≤ capacity) (h : Nat) : inc capacity (h % capacity) = (h + 1) % capacity := by
  have hlt : h % capacity < capacity := Nat.mod_lt h hc
  rw [(Nat.mod_add_mod h capacity 1).symm]
  unfold inc
  split
  · next he => rw [he, Nat.mod_self]
  · next he => exact (Nat.mod_eq_of_lt (by omega)).symm

/-- `(t + k) mod CAPACITY == add_wrap(t mod CAPACITY, k)` (R25). -/
theorem addWrap_mod {capacity k : Nat} (hc : 1 ≤ capacity) (hk : k ≤ capacity) (t : Nat) :
    addWrap capacity (t % capacity) k = (t + k) % capacity := by
  have hlt : t % capacity < capacity := Nat.mod_lt t hc
  rw [(Nat.mod_add_mod t capacity k).symm]
  unfold addWrap
  split
  · next he => rw [Nat.mod_eq_sub_mod he]; exact (Nat.mod_eq_of_lt (by omega)).symm
  · next he => exact (Nat.mod_eq_of_lt (by omega)).symm

theorem inc_lt {capacity p : Nat} (h : p < capacity) : inc capacity p < capacity := by
  unfold inc; split <;> omega

end Machine

end Sys2Proof
end

