-- ==== Sys2Proof/Laws/Decode.lean ====
section
/-! SUPPORT. The ports of a command decode to it, the fields of a joined word are the fields joined, and a command uses only the
fields R48 gives it. -/

namespace Sys2Proof

/-- The ports that present a command decode to it. -/
@[simp] theorem decodeCommand_encodeCommand (i : Instr) : decodeCommand (encodeCommand i) = i := by cases i <;> rfl

/-- A three-bit code is one of the eight of R50. -/
theorem cmdCode_cases (c : CmdCode) : c = 0 ∨ c = 1 ∨ c = 2 ∨ c = 3 ∨ c = 4 ∨ c = 5 ∨ c = 6 ∨ c = 7 := by
  revert c; decide

theorem joinWord_split (c : Config) (x : Command) (h : x.fits c = true) : splitWord c (joinWord c x) = x := by
  obtain ⟨cmd, offset, din⟩ := x
  simp only [Command.fits, Bool.and_eq_true, decide_eq_true_eq] at h
  obtain ⟨ho, hd⟩ := h
  have e : joinWord c ⟨cmd, offset, din⟩ = (cmd.toNat * 2 ^ c.cntWidth + offset) * 2 ^ c.dataWidth + din := by
    simp only [joinWord, Nat.pow_add]; ring
  have h1 : joinWord c ⟨cmd, offset, din⟩ / 2 ^ c.dataWidth = cmd.toNat * 2 ^ c.cntWidth + offset := by
    rw [e, Nat.add_comm, Nat.add_mul_div_right _ _ (Nat.two_pow_pos _), Nat.div_eq_of_lt hd, Nat.zero_add]
  have h2 : joinWord c ⟨cmd, offset, din⟩ / 2 ^ (c.cntWidth + c.dataWidth) = cmd.toNat := by
    rw [Nat.add_comm c.cntWidth, Nat.pow_add, ← Nat.div_div_eq_div_mul, h1, Nat.add_comm,
      Nat.add_mul_div_right _ _ (Nat.two_pow_pos _), Nat.div_eq_of_lt ho, Nat.zero_add]
  have h3 : joinWord c ⟨cmd, offset, din⟩ % 2 ^ c.dataWidth = din := by
    rw [e, Nat.mul_add_mod_self_right, Nat.mod_eq_of_lt hd]
  simp only [splitWord, h1, h2, h3, Nat.mul_add_mod_self_right, Nat.mod_eq_of_lt ho, BitVec.ofNat_toNat,
    BitVec.setWidth_eq]

theorem splitWord_join (c : Config) {w : Nat} (h : w < 2 ^ c.wordWidth) : joinWord c (splitWord c w) = w := by
  have hc : w / 2 ^ (c.cntWidth + c.dataWidth) < 2 ^ 3 := by
    rw [Nat.div_lt_iff_lt_mul (Nat.two_pow_pos _), ← Nat.pow_add]
    simpa [Config.wordWidth, Nat.add_assoc] using h
  simp only [joinWord, splitWord, BitVec.toNat_ofNat, Nat.mod_eq_of_lt hc]
  rw [Nat.add_comm c.cntWidth, Nat.pow_add, ← Nat.div_div_eq_div_mul, Nat.mul_comm (2 ^ c.dataWidth),
    ← Nat.mul_assoc, ← Nat.add_mul, Nat.div_add_mod', Nat.div_add_mod']

/-- A well-formed command's ports fit. -/
theorem fits_encodeCommand {c : Config} {i : Instr} (h : i.wellFormed c = true) : (encodeCommand i).fits c = true := by
  have h2 : ∀ n, 0 < 2 ^ n := fun n => Nat.two_pow_pos n
  cases i <;>
    simp_all [Instr.wellFormed, Command.fits, encodeCommand, Instr.offsetField, Instr.dinField]

/-- Ports that fit decode to a well-formed command. -/
theorem wellFormed_decodeCommand {c : Config} {x : Command} (h : x.fits c = true) :
    (decodeCommand x).wellFormed c = true := by
  simp only [Command.fits, Bool.and_eq_true, decide_eq_true_eq] at h
  unfold decodeCommand
  split <;> simp [Instr.wellFormed, h.1, h.2]

end Sys2Proof
end

