-- ==== Sys2Proof/Laws/Memory.lean ====
section
/-! SUPPORT. The laws of the slot storage: read after write, the canonical form and the bounds are kept, and equal contents
are equal lists. -/

namespace Sys2Proof.Machine.Memory

/-- Read after write: the slot written gives the value, every other slot is as before (R37). -/
theorem read_write (m : Memory) (a b : Nat) (v : Nat) :
    read (write m a v) b = if b = a then some v else read m b := by
  induction m with
  | nil => simp [write, read]
  | cons x m ih =>
    obtain ⟨c, w⟩ := x
    by_cases h : b = a
    · subst h
      simp only [if_true] at ih ⊢
      rcases Nat.lt_trichotomy b c with h1 | h1 | h1
      · simp [write, read, h1]
      · simp [write, read, h1]
      · simp [write, read, ih, Nat.not_lt.mpr h1.le, h1.ne']
    · simp only [if_neg h] at ih ⊢
      rcases Nat.lt_trichotomy a c with h1 | h1 | h1
      · simp [write, read, h, h1]
      · subst h1; simp [write, read, h]
      · simp [write, read, ih, Nat.not_lt.mpr h1.le, h1.ne']

theorem risesFrom_mono {lo lo' : Nat} (h : lo' ≤ lo) {m : Memory} (hm : risesFrom lo m = true) :
    risesFrom lo' m = true := by
  cases m with
  | nil => rfl
  | cons x m =>
    simp only [risesFrom, Bool.and_eq_true, decide_eq_true_eq] at hm ⊢
    exact ⟨h.trans hm.1, hm.2⟩

theorem risesFrom_write {m : Memory} {lo : Nat} {a : Nat} (v : Nat) (hlo : lo ≤ a)
    (hm : risesFrom lo m = true) : risesFrom lo (write m a v) = true := by
  induction m generalizing lo with
  | nil => simp [write, risesFrom, hlo]
  | cons x m ih =>
    obtain ⟨c, w⟩ := x
    simp only [risesFrom, Bool.and_eq_true, decide_eq_true_eq] at hm
    rcases Nat.lt_trichotomy a c with h1 | h1 | h1
    · simp [write, h1, risesFrom, hlo, hm.2]
    · subst h1; simp [write, risesFrom, hm.1, hm.2]
    · simp only [write, Nat.not_lt.mpr h1.le, if_false, h1.ne', risesFrom, Bool.and_eq_true, decide_eq_true_eq]
      exact ⟨hm.1, ih h1 hm.2⟩

/-- Every write keeps the canonical form. -/
theorem wf_write {m : Memory} (a : Nat) (v : Nat) (hm : wf m = true) : wf (write m a v) = true :=
  risesFrom_write v (Nat.zero_le a) hm

/-- A write of an existing slot with a `DATA_WIDTH`-bit value keeps the bounds. -/
theorem fits_write {c : Config} {m : Memory} {a : Nat} {v : Nat} (ha : a < c.capacity)
    (hv : v < 2 ^ c.dataWidth) (hm : fits c m = true) : fits c (write m a v) = true := by
  induction m with
  | nil => simp [write, fits, ha, hv]
  | cons x m ih =>
    obtain ⟨b, w⟩ := x
    have hx := hm
    simp only [fits, List.all_cons, Bool.and_eq_true, decide_eq_true_eq] at hx ih
    unfold write
    split
    · simp only [fits, List.all_cons, Bool.and_eq_true, decide_eq_true_eq]
      exact ⟨⟨ha, hv⟩, hx⟩
    · split
      · simp only [fits, List.all_cons, Bool.and_eq_true, decide_eq_true_eq]
        exact ⟨⟨ha, hv⟩, hx.2⟩
      · simp only [fits, List.all_cons, Bool.and_eq_true, decide_eq_true_eq]
        exact ⟨hx.1, ih hx.2⟩

theorem read_fits {c : Config} {m : Memory} (hm : fits c m = true) {a : Nat} {v : Nat}
    (h : read m a = some v) : a < c.capacity ∧ v < 2 ^ c.dataWidth := by
  induction m with
  | nil => simp [read] at h
  | cons x m ih =>
    obtain ⟨b, w⟩ := x
    simp only [fits, List.all_cons, Bool.and_eq_true, decide_eq_true_eq] at hm ih
    unfold read at h
    split at h
    · next hab => subst hab; cases h; exact hm.1
    · exact ih hm.2 h

/-- What a slot holds is always `DATA_WIDTH` bits, written or not (R14). -/
theorem element_lt {c : Config} {m : Memory} (hm : fits c m = true) (a : Nat) :
    element c.dataWidth m a < 2 ^ c.dataWidth := by
  unfold element
  cases h : read m a with
  | none => exact BitVec.isLt _
  | some v => exact (read_fits hm h).2

theorem element_of_read {w : Nat} {m : Memory} {a : Nat} {v : Nat} (h : read m a = some v) :
    element w m a = v := by simp [element, h]

/-- What a slot holds after a write. -/
theorem element_write (w : Nat) (m : Memory) (a b : Nat) (v : Nat) :
    element w (write m a v) b = if b = a then v else element w m b := by
  unfold element
  rw [read_write]
  split <;> rfl

theorem read_eq_none_of_lt {m : Memory} {lo a : Nat} (hm : risesFrom lo m = true) (h : a < lo) : read m a = none := by
  induction m generalizing lo with
  | nil => rfl
  | cons x m ih =>
    obtain ⟨b, w⟩ := x
    simp only [risesFrom, Bool.and_eq_true, decide_eq_true_eq] at hm
    have hab : a ≠ b := by omega
    simpa [read, hab] using ih hm.2 (by omega : a < b + 1)

theorem ext_from {m m' : Memory} {lo : Nat} (hm : risesFrom lo m = true) (hm' : risesFrom lo m' = true)
    (h : ∀ a, read m a = read m' a) : m = m' := by
  induction m generalizing m' lo with
  | nil =>
    cases m' with
    | nil => rfl
    | cons x m' => have := h x.1; simp [read] at this
  | cons x m ih =>
    obtain ⟨b, w⟩ := x
    cases m' with
    | nil => have := h b; simp [read] at this
    | cons y m' =>
      obtain ⟨b', w'⟩ := y
      simp only [risesFrom, Bool.and_eq_true, decide_eq_true_eq] at hm hm'
      have hb : b = b' := by
        rcases Nat.lt_trichotomy b b' with h1 | h1 | h1
        · have := h b
          simp [read, h1.ne, read_eq_none_of_lt hm'.2 (Nat.lt_succ_of_lt h1)] at this
        · exact h1
        · have := h b'
          simp [read, h1.ne, read_eq_none_of_lt hm.2 (Nat.lt_succ_of_lt h1)] at this
      subst hb
      have hw : w = w' := by simpa [read] using h b
      subst hw
      have : m = m' := by
        refine ih hm.2 hm'.2 fun a => ?_
        have ha := h a
        by_cases hab : a = b
        · subst hab
          rw [read_eq_none_of_lt hm.2 (Nat.lt_succ_self a), read_eq_none_of_lt hm'.2 (Nat.lt_succ_self a)]
        · simpa [read, hab] using ha
      rw [this]

/-- Equal contents are equal lists: the canonical form is canonical. -/
theorem ext {m m' : Memory} (hm : wf m = true) (hm' : wf m' = true) (h : ∀ a, read m a = read m' a) : m = m' :=
  ext_from hm hm' h

end Sys2Proof.Machine.Memory
end

