-- ==== Sys2Proof/Laws/State.lean ====
section
/-! SUPPORT. One lemma for each field of each update of State, so that no later proof unfolds a record update. -/

namespace Sys2Proof.Machine

namespace State

variable (s : State)

@[simp] theorem memWrite_config (a : Nat) (v : Nat) : (s.memWrite a v).config = s.config := rfl
@[simp] theorem memWrite_storage (a : Nat) (v : Nat) : (s.memWrite a v).storage = Memory.write s.storage a v := rfl
@[simp] theorem memWrite_head (a : Nat) (v : Nat) : (s.memWrite a v).head = s.head := rfl
@[simp] theorem memWrite_tail (a : Nat) (v : Nat) : (s.memWrite a v).tail = s.tail := rfl
@[simp] theorem memWrite_regs (a : Nat) (v : Nat) : (s.memWrite a v).regs = s.regs := rfl
@[simp] theorem memWrite_inputs (a : Nat) (v : Nat) : (s.memWrite a v).inputs = s.inputs := rfl
@[simp] theorem memWrite_response (a : Nat) (v : Nat) : (s.memWrite a v).response = s.response := rfl
@[simp] theorem memWrite_draws (a : Nat) (v : Nat) : (s.memWrite a v).draws = s.draws := rfl

@[simp] theorem insertOne_config : (s.insertOne).config = s.config := rfl
@[simp] theorem insertOne_storage : (s.insertOne).storage = s.storage := rfl
@[simp] theorem insertOne_head : (s.insertOne).head = s.head + 1 := rfl
@[simp] theorem insertOne_tail : (s.insertOne).tail = s.tail := rfl
@[simp] theorem insertOne_regs : (s.insertOne).regs = s.regs.insert s.config.capacity := rfl
@[simp] theorem insertOne_inputs : (s.insertOne).inputs = s.inputs := rfl
@[simp] theorem insertOne_response : (s.insertOne).response = s.response := rfl
@[simp] theorem insertOne_draws : (s.insertOne).draws = s.draws := rfl

@[simp] theorem replaceOldest_config : (s.replaceOldest).config = s.config := rfl
@[simp] theorem replaceOldest_storage : (s.replaceOldest).storage = s.storage := rfl
@[simp] theorem replaceOldest_head : (s.replaceOldest).head = s.head + 1 := rfl
@[simp] theorem replaceOldest_tail : (s.replaceOldest).tail = s.tail + 1 := rfl
@[simp] theorem replaceOldest_regs : (s.replaceOldest).regs = s.regs.replace s.config.capacity := rfl
@[simp] theorem replaceOldest_inputs : (s.replaceOldest).inputs = s.inputs := rfl
@[simp] theorem replaceOldest_response : (s.replaceOldest).response = s.response := rfl
@[simp] theorem replaceOldest_draws : (s.replaceOldest).draws = s.draws := rfl

@[simp] theorem removeOldest_config : (s.removeOldest).config = s.config := rfl
@[simp] theorem removeOldest_storage : (s.removeOldest).storage = s.storage := rfl
@[simp] theorem removeOldest_head : (s.removeOldest).head = s.head := rfl
@[simp] theorem removeOldest_tail : (s.removeOldest).tail = s.tail + 1 := rfl
@[simp] theorem removeOldest_regs : (s.removeOldest).regs = s.regs.remove s.config.capacity := rfl
@[simp] theorem removeOldest_inputs : (s.removeOldest).inputs = s.inputs := rfl
@[simp] theorem removeOldest_response : (s.removeOldest).response = s.response := rfl
@[simp] theorem removeOldest_draws : (s.removeOldest).draws = s.draws := rfl

@[simp] theorem discardAll_config : (s.discardAll).config = s.config := rfl
@[simp] theorem discardAll_storage : (s.discardAll).storage = s.storage := rfl
@[simp] theorem discardAll_head : (s.discardAll).head = s.head := rfl
@[simp] theorem discardAll_tail : (s.discardAll).tail = s.head := rfl
@[simp] theorem discardAll_regs : (s.discardAll).regs = s.regs.discard := rfl
@[simp] theorem discardAll_inputs : (s.discardAll).inputs = s.inputs := rfl
@[simp] theorem discardAll_response : (s.discardAll).response = s.response := rfl
@[simp] theorem discardAll_draws : (s.discardAll).draws = s.draws := rfl

@[simp] theorem zeroCounters_config : (s.zeroCounters).config = s.config := rfl
@[simp] theorem zeroCounters_storage : (s.zeroCounters).storage = s.storage := rfl
@[simp] theorem zeroCounters_head : (s.zeroCounters).head = 0 := rfl
@[simp] theorem zeroCounters_tail : (s.zeroCounters).tail = 0 := rfl
@[simp] theorem zeroCounters_regs : (s.zeroCounters).regs = Registers.zero := rfl
@[simp] theorem zeroCounters_inputs : (s.zeroCounters).inputs = s.inputs := rfl
@[simp] theorem zeroCounters_response : (s.zeroCounters).response = s.response := rfl
@[simp] theorem zeroCounters_draws : (s.zeroCounters).draws = s.draws := rfl

@[simp] theorem answer_config (st : Status) : (s.answer st).config = s.config := rfl
@[simp] theorem answer_storage (st : Status) : (s.answer st).storage = s.storage := rfl
@[simp] theorem answer_head (st : Status) : (s.answer st).head = s.head := rfl
@[simp] theorem answer_tail (st : Status) : (s.answer st).tail = s.tail := rfl
@[simp] theorem answer_regs (st : Status) : (s.answer st).regs = s.regs := rfl
@[simp] theorem answer_inputs (st : Status) : (s.answer st).inputs = s.inputs := rfl
@[simp] theorem answer_response (st : Status) : (s.answer st).response = some ⟨st, (Config.freeDout s.config.dataWidth s.draws).toNat⟩ := rfl
@[simp] theorem answer_draws (st : Status) : (s.answer st).draws = s.draws + 1 := rfl

@[simp] theorem answerElement_config (v : Nat) : (s.answerElement v).config = s.config := rfl
@[simp] theorem answerElement_storage (v : Nat) : (s.answerElement v).storage = s.storage := rfl
@[simp] theorem answerElement_head (v : Nat) : (s.answerElement v).head = s.head := rfl
@[simp] theorem answerElement_tail (v : Nat) : (s.answerElement v).tail = s.tail := rfl
@[simp] theorem answerElement_regs (v : Nat) : (s.answerElement v).regs = s.regs := rfl
@[simp] theorem answerElement_inputs (v : Nat) : (s.answerElement v).inputs = s.inputs := rfl
@[simp] theorem answerElement_response (v : Nat) : (s.answerElement v).response = some ⟨.ok, v⟩ := rfl
@[simp] theorem answerElement_draws (v : Nat) : (s.answerElement v).draws = s.draws := rfl

@[simp] theorem raise_config (f : Failure) : (s.raise f).config = s.config := rfl
@[simp] theorem raise_storage (f : Failure) : (s.raise f).storage = s.storage := rfl
@[simp] theorem raise_head (f : Failure) : (s.raise f).head = s.head := rfl
@[simp] theorem raise_tail (f : Failure) : (s.raise f).tail = s.tail := rfl
@[simp] theorem raise_regs (f : Failure) : (s.raise f).regs = s.regs := rfl
@[simp] theorem raise_inputs (f : Failure) : (s.raise f).inputs = s.inputs := rfl
@[simp] theorem raise_response (f : Failure) : (s.raise f).response = some ⟨f.status, (Config.freeDout s.config.dataWidth s.draws).toNat⟩ := rfl
@[simp] theorem raise_draws (f : Failure) : (s.raise f).draws = s.draws + 1 := rfl

@[simp] theorem resetEdge_config : (s.resetEdge).config = s.config := rfl
@[simp] theorem resetEdge_storage : (s.resetEdge).storage = s.storage := rfl
@[simp] theorem resetEdge_head : (s.resetEdge).head = 0 := rfl
@[simp] theorem resetEdge_tail : (s.resetEdge).tail = 0 := rfl
@[simp] theorem resetEdge_regs : (s.resetEdge).regs = Registers.zero := rfl
@[simp] theorem resetEdge_inputs : (s.resetEdge).inputs = s.inputs := rfl
@[simp] theorem resetEdge_response : (s.resetEdge).response = none := rfl
@[simp] theorem resetEdge_draws : (s.resetEdge).draws = s.draws := rfl

@[simp] theorem afterFetch_config : (s.afterFetch).config = s.config := rfl
@[simp] theorem afterFetch_storage : (s.afterFetch).storage = s.storage := rfl
@[simp] theorem afterFetch_head : (s.afterFetch).head = s.head := rfl
@[simp] theorem afterFetch_tail : (s.afterFetch).tail = s.tail := rfl
@[simp] theorem afterFetch_regs : (s.afterFetch).regs = s.regs := rfl
@[simp] theorem afterFetch_inputs : (s.afterFetch).inputs = s.inputs.tail := rfl
@[simp] theorem afterFetch_response : (s.afterFetch).response = s.response := rfl
@[simp] theorem afterFetch_draws : (s.afterFetch).draws = s.draws := rfl

@[simp] theorem withInputs_config (xs : List Input) : (s.withInputs xs).config = s.config := rfl
@[simp] theorem withInputs_storage (xs : List Input) : (s.withInputs xs).storage = s.storage := rfl
@[simp] theorem withInputs_head (xs : List Input) : (s.withInputs xs).head = s.head := rfl
@[simp] theorem withInputs_tail (xs : List Input) : (s.withInputs xs).tail = s.tail := rfl
@[simp] theorem withInputs_regs (xs : List Input) : (s.withInputs xs).regs = s.regs := rfl
@[simp] theorem withInputs_inputs (xs : List Input) : (s.withInputs xs).inputs = xs := rfl
@[simp] theorem withInputs_response (xs : List Input) : (s.withInputs xs).response = s.response := rfl
@[simp] theorem withInputs_draws (xs : List Input) : (s.withInputs xs).draws = s.draws := rfl

end State

variable (capacity : Nat) (r : Registers)

@[simp] theorem Registers.insert_rdPtr : (r.insert capacity).rdPtr = r.rdPtr := rfl
@[simp] theorem Registers.insert_wrPtr : (r.insert capacity).wrPtr = inc capacity r.wrPtr := rfl
@[simp] theorem Registers.insert_cnt : (r.insert capacity).cnt = r.cnt + 1 := rfl
@[simp] theorem Registers.replace_rdPtr : (r.replace capacity).rdPtr = inc capacity r.rdPtr := rfl
@[simp] theorem Registers.replace_wrPtr : (r.replace capacity).wrPtr = inc capacity r.wrPtr := rfl
@[simp] theorem Registers.replace_cnt : (r.replace capacity).cnt = r.cnt := rfl
@[simp] theorem Registers.remove_rdPtr : (r.remove capacity).rdPtr = inc capacity r.rdPtr := rfl
@[simp] theorem Registers.remove_wrPtr : (r.remove capacity).wrPtr = r.wrPtr := rfl
@[simp] theorem Registers.remove_cnt : (r.remove capacity).cnt = r.cnt - 1 := rfl
@[simp] theorem Registers.discard_rdPtr : (r.discard).rdPtr = r.wrPtr := rfl
@[simp] theorem Registers.discard_wrPtr : (r.discard).wrPtr = r.wrPtr := rfl
@[simp] theorem Registers.discard_cnt : (r.discard).cnt = 0 := rfl
@[simp] theorem Registers.zero_rdPtr : Registers.zero.rdPtr = 0 := rfl
@[simp] theorem Registers.zero_wrPtr : Registers.zero.wrPtr = 0 := rfl
@[simp] theorem Registers.zero_cnt : Registers.zero.cnt = 0 := rfl

end Sys2Proof.Machine
end

