-- ==== Sys2Proof/Laws/Exec.lean ====
section
/-! SUPPORT. What each meaning can answer, once: one equation for each branch, the facts about flags and slots that the branches
need, and the two ways a step goes. -/

namespace Sys2Proof.Machine

/-! ### Flags and slots -/

theorem State.full_eq_true {s : State} : s.full = true ↔ s.head - s.tail = s.config.capacity :=
  decide_eq_true_iff

theorem State.full_eq_false {s : State} : s.full = false ↔ s.head - s.tail ≠ s.config.capacity :=
  decide_eq_false_iff_not

theorem State.empty_eq_true {s : State} : s.empty = true ↔ s.head = s.tail := by simp [State.empty]

theorem State.empty_eq_false {s : State} : s.empty = false ↔ s.head ≠ s.tail := by simp [State.empty]

theorem State.wrSlot_lt (s : State) : s.wrSlot < s.config.capacity := Nat.mod_lt _ s.config.capacity_pos

theorem State.slotOf_lt (s : State) (p : Nat) : s.slotOf p < s.config.capacity := Nat.mod_lt _ s.config.capacity_pos

@[simp] theorem State.queue_length (s : State) : s.queue.length = s.count := by simp [State.queue]

/-- The Moore outputs are those of the list of live elements, wherever `tail` is not ahead of `head` (R72). -/
theorem State.moore_eq_fifoMoore {s : State} (h : s.tail ≤ s.head) : s.moore = fifoMoore s.config.capacity s.queue := by
  have he : s.empty = s.queue.isEmpty := by
    rw [Bool.eq_iff_iff, State.empty_eq_true, List.isEmpty_iff_length_eq_zero, State.queue_length]
    unfold State.count
    omega
  simp [State.moore, fifoMoore, State.remaining, State.full, he]

/-- Two counters less than `CAPACITY` apart with the same slot are equal (R34, R45). -/
theorem eq_of_mod_eq {capacity a b : Nat} (hab : a ≤ b) (hlt : b < a + capacity) (h : a % capacity = b % capacity) :
    a = b := by
  have h1 : (b - a) % capacity = 0 := Nat.sub_mod_eq_zero_of_mod_eq h.symm
  rw [Nat.mod_eq_of_lt (by omega)] at h1
  omega

/-! ### The branches of the meanings -/

theorem execPush_full {s : State} {din : Nat} (h : s.full = true) :
    exec (.push din) s = .next (s.raise .bufferFull) := if_pos h

theorem execPush_room {s : State} {din : Nat} (h : s.full = false) :
    exec (.push din) s = .next (((s.memWrite s.wrSlot din).insertOne).answer .ok) := if_neg (by simp [h])

theorem execPushov_full {s : State} {din : Nat} (h : s.full = true) :
    exec (.pushov din) s = .next (((s.memWrite s.wrSlot din).replaceOldest).answer .ok) := if_pos h

theorem execPushov_room {s : State} {din : Nat} (h : s.full = false) :
    exec (.pushov din) s = .next (((s.memWrite s.wrSlot din).insertOne).answer .ok) := if_neg (by simp [h])

theorem execPop_empty {s : State} (h : s.empty = true) : exec .pop s = .next (s.raise .bufferEmpty) := if_pos h

theorem execPop_live {s : State} (h : s.empty = false) :
    exec .pop s = .next (s.removeOldest.answerElement (s.memRead s.rdSlot)) := if_neg (by simp [h])

theorem execPeek_out {s : State} {k : Nat} (h : s.count ≤ k) :
    exec (.peek k) s = .next (s.raise .outOfRange) := if_pos h

theorem execPeek_in {s : State} {k : Nat} (h : k < s.count) :
    exec (.peek k) s = .next (s.answerElement (s.memRead (s.slotOf k))) := if_neg (by omega)

/-- Inversion: everything `exec` can answer, guards included. No command stops. -/
theorem exec_cases (i : Instr) (s : State) :
    (i = .nop ∧ exec i s = .next (s.answer .ok)) ∨
    (i = .illegal ∧ exec i s = .next (s.raise .illegalCommand)) ∨
    (i = .flush ∧ exec i s = .next (s.discardAll.answer .ok)) ∨
    (i = .release ∧ exec i s = .next (s.zeroCounters.answer .ok)) ∨
    (∃ din, i = .push din ∧ s.full = true ∧ exec i s = .next (s.raise .bufferFull)) ∨
    (∃ din, (i = .push din ∨ i = .pushov din) ∧ s.full = false ∧
      exec i s = .next (((s.memWrite s.wrSlot din).insertOne).answer .ok)) ∨
    (∃ din, i = .pushov din ∧ s.full = true ∧
      exec i s = .next (((s.memWrite s.wrSlot din).replaceOldest).answer .ok)) ∨
    (i = .pop ∧ s.empty = true ∧ exec i s = .next (s.raise .bufferEmpty)) ∨
    (i = .pop ∧ s.empty = false ∧ exec i s = .next (s.removeOldest.answerElement (s.memRead s.rdSlot))) ∨
    (∃ k, i = .peek k ∧ s.count ≤ k ∧ exec i s = .next (s.raise .outOfRange)) ∨
    (∃ k, i = .peek k ∧ k < s.count ∧ exec i s = .next (s.answerElement (s.memRead (s.slotOf k)))) := by
  cases i with
  | nop => exact .inl ⟨rfl, rfl⟩
  | illegal => exact .inr (.inl ⟨rfl, rfl⟩)
  | flush => exact .inr (.inr (.inl ⟨rfl, rfl⟩))
  | release => exact .inr (.inr (.inr (.inl ⟨rfl, rfl⟩)))
  | push din =>
    cases h : s.full with
    | true => exact .inr (.inr (.inr (.inr (.inl ⟨din, rfl, rfl, execPush_full h⟩))))
    | false => exact .inr (.inr (.inr (.inr (.inr (.inl ⟨din, .inl rfl, rfl, execPush_room h⟩)))))
  | pushov din =>
    cases h : s.full with
    | true => exact .inr (.inr (.inr (.inr (.inr (.inr (.inl ⟨din, rfl, rfl, execPushov_full h⟩))))))
    | false => exact .inr (.inr (.inr (.inr (.inr (.inl ⟨din, .inr rfl, rfl, execPushov_room h⟩)))))
  | pop =>
    cases h : s.empty with
    | true => exact .inr (.inr (.inr (.inr (.inr (.inr (.inr (.inl ⟨rfl, rfl, execPop_empty h⟩)))))))
    | false => exact .inr (.inr (.inr (.inr (.inr (.inr (.inr (.inr (.inl ⟨rfl, rfl, execPop_live h⟩))))))))
  | peek k =>
    rcases Nat.lt_or_ge k s.count with h | h
    · exact .inr (.inr (.inr (.inr (.inr (.inr (.inr (.inr (.inr (.inr ⟨k, rfl, h, execPeek_in h⟩)))))))))
    · exact .inr (.inr (.inr (.inr (.inr (.inr (.inr (.inr (.inr (.inl ⟨k, rfl, h, execPeek_out h⟩)))))))))

/-! ### The step -/

theorem step_rst {s : State} (h : s.presented.rst = true) : step s = .next s.afterFetch.resetEdge := if_pos h

theorem step_command {s : State} (h : s.presented.rst = false) :
    step s = exec (decodeCommand s.presented.command) s.afterFetch := if_neg (by simp [h])

@[simp] theorem State.presented_withInputs_cons (s : State) (x : Input) (xs : List Input) :
    (s.withInputs (x :: xs)).presented = x := rfl

@[simp] theorem State.afterFetch_withInputs_cons (s : State) (x : Input) (xs : List Input) :
    (s.withInputs (x :: xs)).afterFetch = s.withInputs xs := rfl

@[simp] theorem State.withInputs_self (s : State) : s.withInputs s.inputs = s := rfl

@[simp] theorem State.withInputs_withInputs (s : State) (xs ys : List Input) :
    (s.withInputs xs).withInputs ys = s.withInputs ys := rfl

/-- One more cycle of a run. -/
theorem observe_succ {s t : State} (n : Nat) (h : step s = .next t) :
    observe (n + 1) s = (cycleOutputs s t :: (observe n t).1, (observe n t).2) := by simp [observe, h]

end Sys2Proof.Machine
end

