-- ==== Sys2Proof/Laws/PerInstr.lean ====
section
/-! SUPPORT. Facts about every command as syntax, one lemma a constructor. -/

namespace Sys2Proof.Laws

namespace PortsDecode

/-- The ports that present a command decode to it, carry its code, and fit where it is well-formed (R48, R50). -/
def Statement (i : Instr) : Prop :=
  decodeCommand (encodeCommand i) = i ∧ (decodeCommand (encodeCommand i)).opcode = (encodeCommand i).cmd ∧
  ∀ c : Config, i.wellFormed c = true → (encodeCommand i).fits c = true

theorem nop : Statement .nop := ⟨rfl, rfl, fun _ => fits_encodeCommand⟩
theorem push (din : Nat) : Statement (.push din) := ⟨rfl, rfl, fun _ => fits_encodeCommand⟩
theorem pushov (din : Nat) : Statement (.pushov din) := ⟨rfl, rfl, fun _ => fits_encodeCommand⟩
theorem pop : Statement .pop := ⟨rfl, rfl, fun _ => fits_encodeCommand⟩
theorem peek (offset : Nat) : Statement (.peek offset) := ⟨rfl, rfl, fun _ => fits_encodeCommand⟩
theorem flush : Statement .flush := ⟨rfl, rfl, fun _ => fits_encodeCommand⟩
theorem release : Statement .release := ⟨rfl, rfl, fun _ => fits_encodeCommand⟩
theorem illegal : Statement .illegal := ⟨rfl, rfl, fun _ => fits_encodeCommand⟩

end PortsDecode

end Sys2Proof.Laws
end

