-- ==== Sys2Proof/Tests/Slice0.lean ====
section
/-! SUPPORT. Tests, each on one step or one word, with the expected result taken from spec/ (the vector or worked example is
named), and a witness for the hypotheses of every statement that has some. -/

namespace Sys2Proof.Tests

open Sys2Proof.Machine

/-! ### Small states -/

/-- The configurations of the spec's vectors, `DATA_WIDTH = 8`. -/
def one : Config := ⟨1, 8, by decide, by decide⟩
def three : Config := ⟨3, 8, by decide, by decide⟩
def four : Config := ⟨4, 8, by decide, by decide⟩

/-- A state with the given storage and counters, and the registers R22 gives for them. -/
def sample (c : Config) (m : Memory) (head tail : Nat) : State :=
  { State.initial c with
    storage := m, head := head, tail := tail, regs := ⟨tail % c.capacity, head % c.capacity, head - tail⟩ }

/-- V5's start state: live slots 3, 0, 1 and a dead slot 2. -/
def wrapped : State := sample four [(0, 0xE4), (1, 0xE5), (2, 0xC2), (3, 0xD3)] 6 3
/-- S2 and S3's full buffer. -/
def fullThree : State := sample three [(0, 1), (1, 2), (2, 3)] 3 0
/-- S6's buffer after FLUSH: empty, counters not 0. -/
def emptyThree : State := sample three [(0, 1), (1, 2), (2, 3)] 3 3
/-- V3 after `PUSHOV 0xCC`. -/
def fullOne : State := sample one [(0, 0xCC)] 2 1

/-- What a requester may read of the answer: the status and the defined `dout`. -/
def answered (o : Host.Outcome State Fault Refusal) : Option Status :=
  match o with
  | .next t => t.response.map Response.status
  | .fault _ => none
  | .refused _ => none

def returned (o : Host.Outcome State Fault Refusal) : Option Nat :=
  match o with
  | .next t => t.response.map Response.dout
  | .fault _ => none
  | .refused _ => none

/-- Counters, registers and storage of a next state. -/
def block (o : Host.Outcome State Fault Refusal) : Option (Nat × Nat × Registers × Memory) :=
  match o with
  | .next t => some (t.head, t.tail, t.regs, t.storage)
  | .fault _ => none
  | .refused _ => none

/-! ### Well-formedness refuses what a port cannot carry (R46) -/

theorem test_wellFormed_push : Instr.wellFormed four (.push 256) = false ∧ Instr.wellFormed four (.push 255) = true := by decide
theorem test_wellFormed_pushov : Instr.wellFormed four (.pushov 256) = false ∧ Instr.wellFormed four (.pushov 255) = true := by decide
theorem test_wellFormed_peek : Instr.wellFormed four (.peek 8) = false ∧ Instr.wellFormed four (.peek 7) = true := by decide
theorem test_wellFormed_plain :
    Instr.wellFormed four .nop && Instr.wellFormed four .pop && Instr.wellFormed four .flush &&
      Instr.wellFormed four .release && Instr.wellFormed four .illegal = true := by decide
theorem test_fits : Command.fits four ⟨0, 8, 0⟩ = false ∧ Command.fits four ⟨0, 0, 256⟩ = false ∧
    Command.fits four ⟨0, 7, 255⟩ = true := by decide

/-! ### Widths (V2, the line under the table) and pointers (V2) -/

theorem test_widths :
    [1, 2, 3, 4, 5, 7, 8, 255, 256].map (fun n => max 1 (clog2 n)) = [1, 1, 2, 2, 3, 3, 3, 8, 8] ∧
    [1, 2, 3, 4, 5, 7, 8, 255, 256].map (fun n => clog2 (n + 1)) = [1, 2, 2, 3, 3, 3, 4, 8, 9] := by decide
theorem test_inc : inc 1 0 = 0 ∧ [0, 1, 2].map (inc 3) = [1, 2, 0] ∧ inc 4 3 = 0 ∧ inc 5 4 = 0 := by decide
theorem test_addWrap : [0, 1, 2].map (addWrap 3 2) = [2, 0, 1] ∧ addWrap 4 3 2 = 1 ∧ addWrap 5 4 4 = 3 ∧ addWrap 1 0 0 = 0 := by
  decide

/-! ### Decoding: words written out bit by bit from R57 (`cmd` in bits 13 to 11 for `CAPACITY = 4`), and port values from R50 -/

theorem test_decode_nop : decodeWord four 0b000_000_00000000 = .ok .nop := by decide
theorem test_decode_push : decodeWord four 0b001_000_01000001 = .ok (.push 0x41) := by decide
theorem test_decode_pushov : decodeWord three 0b010_00_00000100 = .ok (.pushov 4) := by decide
theorem test_decode_pop : decodeWord four 0b011_000_00000000 = .ok .pop := by decide
theorem test_decode_peek : decodeWord four 0b100_010_00000000 = .ok (.peek 2) := by decide
theorem test_decode_flush : decodeWord three 0b101_00_00000000 = .ok .flush := by decide
theorem test_decode_release : decodeWord three 0b110_00_00000000 = .ok .release := by decide
theorem test_decode_illegal : decodeWord four 0b111_000_00000000 = .ok .illegal := by decide
/-- V11: `POP` with `din = 0xFF, offset = 5`, `PUSH 0x41` with `offset = 7`, `PEEK 1` with `din = 0x99`. -/
theorem test_decode_ignores : decodeWord four 0x1DFF = .ok .pop ∧ decodeWord four 0x0F41 = .ok (.push 0x41) ∧
    decodeWord four 0x2199 = .ok (.peek 1) := by decide
theorem test_decode_tooWide : decodeWord four 0x4000 = .error .wordTooWide := by decide
theorem test_decode_table : (List.range 8).map (decodeTableWord 8) =
    [some .nop, some (.push 0), some (.pushov 0), some .pop, some (.peek 0), some .flush, some .release, some .illegal] := by
  decide
/-- R57's examples and the `canonical_word_ref_config` column of spec/opcode_table.json. -/
theorem test_encode : [Instr.nop, .push 0x41, .pushov 0x41, .pop, .peek 2, .flush, .release, .illegal].map (encode four) =
    [0, 0x0841, 0x1041, 0x1800, 0x2200, 0x2800, 0x3000, 0x3800] := by decide

/-! ### Commands, one step each -/

/-- V8, row 2: after FLUSH at `head = tail = 7`, `PUSH 0x42` writes slot 1. -/
theorem test_push_room : block (exec (.push 0x42) (sample three [(0, 7), (1, 5), (2, 6)] 7 7)) =
    some (8, 7, ⟨1, 2, 1⟩, [(0, 7), (1, 0x42), (2, 6)]) := by decide
/-- S2, row 4. -/
theorem test_push_full : answered (exec (.push 4) fullThree) = some .bufferFull ∧
    block (exec (.push 4) fullThree) = some (3, 0, ⟨0, 0, 3⟩, [(0, 1), (1, 2), (2, 3)]) := by decide
/-- S3, row 4. -/
theorem test_pushov_full : answered (exec (.pushov 4) fullThree) = some .ok ∧
    block (exec (.pushov 4) fullThree) = some (4, 1, ⟨1, 1, 3⟩, [(0, 4), (1, 2), (2, 3)]) := by decide
/-- V4, row 1. -/
theorem test_pushov_room : block (exec (.pushov 0x55) State.reset) = some (1, 0, ⟨0, 1, 1⟩, [(0, 0x55)]) := by decide
/-- R81's worked example. -/
theorem test_pop_live : returned (exec .pop (sample three [(0, 0x11), (1, 0x22), (2, 0x33)] 5 2)) = some 0x33 ∧
    block (exec .pop (sample three [(0, 0x11), (1, 0x22), (2, 0x33)] 5 2)) =
      some (5, 3, ⟨0, 2, 2⟩, [(0, 0x11), (1, 0x22), (2, 0x33)]) := by decide
/-- S4. -/
theorem test_pop_empty : answered (exec .pop State.reset) = some .bufferEmpty := by decide
/-- V5, row 3: slot `(3 + 2) mod 4 = 1`. -/
theorem test_peek_wraps : returned (exec (.peek 2) wrapped) = some 0xE5 ∧ answered (exec (.peek 2) wrapped) = some .ok := by decide
/-- V5, row 5, and V6, row 1. -/
theorem test_peek_out : answered (exec (.peek 3) wrapped) = some .outOfRange ∧
    answered (exec (.peek 0) State.reset) = some .outOfRange := by decide
/-- V8, row 1. -/
theorem test_flush : block (exec .flush (sample three [(0, 7), (1, 5), (2, 6)] 7 5)) =
    some (7, 7, ⟨1, 1, 0⟩, [(0, 7), (1, 5), (2, 6)]) := by decide
/-- V7, row 1. -/
theorem test_release : block (exec .release (sample three [(0, 4), (1, 5), (2, 3)] 5 3)) =
    some (0, 0, ⟨0, 0, 0⟩, [(0, 4), (1, 5), (2, 3)]) := by decide
/-- V9, row 1. -/
theorem test_nop : answered (exec .nop State.reset) = some .ok ∧ block (exec .nop wrapped) = some (6, 3, ⟨3, 2, 3⟩, wrapped.storage) := by
  decide
/-- V9, row 6. -/
theorem test_illegal : answered (exec .illegal wrapped) = some .illegalCommand ∧
    block (exec .illegal wrapped) = some (6, 3, ⟨3, 2, 3⟩, wrapped.storage) := by decide
/-- V10, row 3: reset with a PUSH on the ports. -/
theorem test_reset_wins :
    block (step ((sample four [(0, 1), (1, 2)] 2 0).withInputs [⟨true, encodeCommand (.push 9)⟩])) =
      some (0, 0, ⟨0, 0, 0⟩, [(0, 1), (1, 2)]) := by decide
/-- S8 and R61's worked example. -/
theorem test_create : create 0 = .fault .invalidCapacity ∧ create (-1) = .fault .invalidCapacity ∧
    block (create 3) = some (0, 0, ⟨0, 0, 0⟩, []) := ⟨rfl, rfl, rfl⟩
/-- V1, rows 2, 3, 7 and 9. -/
theorem test_queries : (sample four [] 6 3).moore = ⟨3, 1, false, false⟩ ∧ (sample four [] 8 4).moore = ⟨4, 0, true, false⟩ ∧
    (sample three [] 1000000 999998).moore = ⟨2, 1, false, false⟩ ∧ (sample one [] 5 4).moore = ⟨1, 0, true, false⟩ := by decide
/-- The first step after reset on each row of spec/opcode_table.json, operands 0 (R73 to R94). -/
theorem test_first_step : (List.range 8).map (fun w => answered (step (State.reset.withFetchWord 8 w))) =
    [some .ok, some .ok, some .ok, some .bufferEmpty, some .outOfRange, some .ok, some .ok, some .illegalCommand] := by decide
/-- V5, row 3, at register level (R85), and S3, row 4 (R77). -/
theorem test_register_level : (registerExec four (.peek 2) wrapped.storage wrapped.regs).dout = some 0xE5 ∧
    (registerExec three (.pushov 4) fullThree.storage fullThree.regs).regs = ⟨1, 1, 3⟩ := by decide
theorem test_storage_canonical : Memory.wf [(1, 5), (1, 6)] = false ∧ Memory.wf [(2, 5), (1, 6)] = false ∧
    Memory.write (Memory.write [] 2 5) 1 6 = Memory.write (Memory.write [] 1 6) 2 5 ∧
    Memory.fits three [(3, 0)] = false ∧ Memory.fits three [(2, 256)] = false := by decide
/-- R58's examples, with decimal literals. -/
theorem test_listing : listing (.push 65) = "PUSH 65" ∧ listing (.peek 2) = "PEEK 2" ∧ listing .illegal = "ILLEGAL" ∧
    responseListing .ok (some 65) = "-> OK, dout=65" ∧ responseListing .bufferFull none = "-> BUFFER_FULL" := by decide

/-! ### Witnesses: states and operands that meet the hypotheses of the statements -/

theorem wrapped_inv : wrapped.Inv :=
  ⟨by decide, by decide, ⟨rfl, rfl, rfl⟩, rfl, rfl, by decide, by decide, by intro r hr; cases hr⟩
theorem fullThree_inv : fullThree.Inv :=
  ⟨by decide, by decide, ⟨rfl, rfl, rfl⟩, rfl, rfl, by decide, by decide, by intro r hr; cases hr⟩
theorem emptyThree_inv : emptyThree.Inv :=
  ⟨by decide, by decide, ⟨rfl, rfl, rfl⟩, rfl, rfl, by decide, by decide, by intro r hr; cases hr⟩
theorem fullOne_inv : fullOne.Inv :=
  ⟨by decide, by decide, ⟨rfl, rfl, rfl⟩, rfl, rfl, by decide, by decide, by intro r hr; cases hr⟩

theorem witness_CommandWordRoundTrip : Instr.wellFormed four (.push 255) = true ∧ Instr.wellFormed three (.peek 3) = true ∧
    Instr.wellFormed one .release = true := by decide
theorem witness_EveryCommandWordDecodes : 0x3FFF < 2 ^ four.wordWidth ∧ 2 ^ four.wordWidth ≤ 0x4000 ∧
    (Instr.push 0x41).offsetField = (splitWord four 0x0841).offset ∧
    (Instr.push 0x41).dinField = (splitWord four 0x0841).din := by decide
/-- V11: two PUSHes that differ in `offset`, two PEEKs that differ in `din`, two POPs that differ in both. -/
def ignoredPairs : List (Input × Input) :=
  [(⟨false, ⟨1, 7, 0x41⟩⟩, ⟨false, ⟨1, 0, 0x41⟩⟩), (⟨false, ⟨4, 1, 0x99⟩⟩, ⟨false, ⟨4, 1, 0⟩⟩), (⟨false, ⟨3, 5, 0xFF⟩⟩, ⟨false, ⟨3, 0, 0⟩⟩)]
theorem witness_IgnoredFieldsHaveNoEffect : ∀ p ∈ ignoredPairs, p.1.rst = p.2.rst ∧ p.1.command.cmd = p.2.command.cmd ∧
    (p.1.command.cmd = 4 → p.1.command.offset = p.2.command.offset) ∧
    (p.1.command.cmd = 1 ∨ p.1.command.cmd = 2 → p.1.command.din = p.2.command.din) ∧ p.1 ≠ p.2 := by decide
theorem witness_StepRunsThePresentedCommand : decodeTableWord 8 3 = some .pop := by decide
theorem witness_CreateBuildsAnEmptyBlockOrFails : ((0 : Int) < 1) ∧ ((1 : Int) ≤ 1 ∧ (0 : Nat) < 1) ∧ ((1 : Int) ≤ 1 ∧ 1 ≤ 1) := by
  decide
theorem witness_PushStoresOrRefuses : fullThree.head - fullThree.tail = fullThree.config.capacity ∧
    (wrapped.head - wrapped.tail ≠ wrapped.config.capacity ∧ wrapped.tail ≤ wrapped.head) := by decide
theorem witness_PushovAlwaysStores : fullThree.tail ≤ fullThree.head ∧ fullThree.full = true := by decide
theorem witness_PopReturnsTheOldest : emptyThree.head = emptyThree.tail ∧ fullOne.head ≠ fullOne.tail ∧ fullOne.Inv :=
  ⟨by decide, by decide, fullOne_inv⟩
theorem witness_PeekInspectsWithoutChange : wrapped.head - wrapped.tail ≤ 3 ∧ 2 < wrapped.head - wrapped.tail ∧
    0 < wrapped.head - wrapped.tail ∧ wrapped.Inv := ⟨by decide, by decide, by decide, wrapped_inv⟩
theorem witness_FlushEmptiesAndKeepsHead : emptyThree.Inv ∧ emptyThree.empty = true := ⟨emptyThree_inv, by decide⟩
theorem witness_FlushIsCountPops : wrapped.Inv ∧ wrapped.count = 3 := ⟨wrapped_inv, by decide⟩
theorem witness_InsertRegisterLevel : (fullThree.Inv ∧ fullThree.regs.cnt = fullThree.config.capacity) ∧
    (wrapped.Inv ∧ wrapped.regs.cnt ≠ wrapped.config.capacity) := ⟨⟨fullThree_inv, by decide⟩, wrapped_inv, by decide⟩
theorem witness_RemoveRegisterLevel : (emptyThree.Inv ∧ emptyThree.regs.cnt = 0 ∧ emptyThree.regs.cnt ≤ 0) ∧
    (wrapped.Inv ∧ wrapped.regs.cnt ≠ 0 ∧ wrapped.regs.cnt ≤ 3 ∧ 2 < wrapped.regs.cnt) :=
  ⟨⟨emptyThree_inv, by decide, by decide⟩, wrapped_inv, by decide, by decide, by decide⟩
theorem witness_RegisterMachineRefinesCounters : wrapped.Inv ∧ Instr.returnsElement (.peek 2) = true ∧
    (registerExec four (.peek 2) wrapped.storage wrapped.regs).status = .ok := ⟨wrapped_inv, by decide, by decide⟩
theorem witness_TotalCommandsAlwaysAnswerOk : ∃ din, Instr.pushov 4 = .pushov din := ⟨4, rfl⟩
theorem witness_PeekOnEmptyIsOutOfRange : emptyThree.empty = true := by decide
theorem witness_FailuresArePreciseAndLeaveNoMark :
    ∃ t, step (fullThree.withInputs [.ofInstr (.push 4), .ofInstr .pop]) = .next t ∧ t.Answers .bufferFull ∧
      Status.bufferFull ≠ .ok := ⟨_, rfl, ⟨_, rfl, rfl⟩, by decide⟩
theorem witness_PushovIsPushUnlessFull : (wrapped.Inv ∧ wrapped.full = false) ∧ (fullThree.Inv ∧ fullThree.full = true) ∧
    1 + 1 < fullThree.config.capacity := ⟨⟨wrapped_inv, by decide⟩, ⟨fullThree_inv, by decide⟩, by decide⟩
theorem witness_OneSlotBufferKeepsTheNewest : fullOne.Inv ∧ fullOne.config.capacity = 1 := ⟨fullOne_inv, rfl⟩
theorem witness_EveryStepKeepsTheInvariant : fullThree.Inv := fullThree_inv
theorem witness_CountersNeverDecreaseWithinALifetime : wrapped.Inv ∧ wrapped.presented.rst = false ∧
    decodeCommand wrapped.presented.command ≠ .release := ⟨wrapped_inv, by decide, by decide⟩
theorem witness_RegistersStayInRange : wrapped.Inv := wrapped_inv
theorem witness_EqualPointersMeanEmptyOrFull : fullOne.Inv ∧ fullOne.config.capacity = 1 ∧ emptyThree.Inv :=
  ⟨fullOne_inv, rfl, emptyThree_inv⟩
theorem witness_QueryRelations : fullOne.Inv ∧ fullOne.config.capacity = 1 := ⟨fullOne_inv, rfl⟩
theorem witness_PointerArithmeticIsModular : three.capacity ≤ three.capacity ∧ 2 < three.capacity := by decide
theorem witness_StorageHoldsTheLastInserts : fullThree.Holds [1, 2, 3] ∧ fullThree.Inv ∧ 2 < fullThree.count :=
  ⟨⟨rfl, by decide⟩, fullThree_inv, by decide⟩
theorem witness_EveryCommandActsAsOnAQueue : fullThree.Inv ∧ (fifoExec 3 .pop fullThree.queue).2.1 = .ok :=
  ⟨fullThree_inv, by decide⟩
theorem witness_EveryRunActsAsOnAQueue :
    wrapped.Inv ∧ ∀ x ∈ [Input.ofInstr (.push 255), .reset, .ofInstr (.peek 7)], x.fits wrapped.config = true :=
  ⟨wrapped_inv, by decide⟩
theorem witness_FillAndDrainReturnsElementsInOrder : emptyThree.Inv ∧ emptyThree.empty = true ∧
    [0x61, 0x62, 0xFF].length = emptyThree.config.capacity ∧ ∀ e ∈ [0x61, 0x62, 0xFF], e < 2 ^ emptyThree.config.dataWidth :=
  ⟨emptyThree_inv, by decide, by decide, by decide⟩
theorem witness_PeekReturnsTheLaterPop : wrapped.Inv ∧ 2 < wrapped.count := ⟨wrapped_inv, by decide⟩
/-- `wrapped` with another element in its dead slot 2. -/
def otherDeadSlot : State := sample four [(0, 0xE4), (1, 0xE5), (2, 0x00), (3, 0xD3)] 6 3
theorem witness_DeadSlotsAreNeverObserved : wrapped.Inv ∧ wrapped.SameLive otherDeadSlot ∧
    wrapped.inputs = otherDeadSlot.inputs ∧ wrapped.storage ≠ otherDeadSlot.storage :=
  ⟨wrapped_inv, ⟨rfl, rfl, rfl, rfl, by decide⟩, rfl, by decide⟩
theorem witness_MooreOutputsShowTheStateBeforeTheCommand : 1 < [Input.ofInstr .pop, .idle].length := by decide

end Sys2Proof.Tests
end

/-! SUPPORT. The block as a bounded FIFO list: what a step keeps, what each update does to the queue of live elements, and the
simulation of a run by `fifoRun`. -/

namespace Sys2Proof.Machine

/-! ### Every step ends in a next state (R11, R126) -/

/-- No command stops the block, takes an input or changes a parameter. -/
theorem exec_next (i : Instr) (s : State) :
    ∃ t, exec i s = .next t ∧ t.inputs = s.inputs ∧ t.config = s.config := by
  rcases exec_cases i s with ⟨-, h⟩ | ⟨-, h⟩ | ⟨-, h⟩ | ⟨-, h⟩ | ⟨_, -, -, h⟩ | ⟨_, -, -, h⟩ | ⟨_, -, -, h⟩ |
    ⟨-, -, h⟩ | ⟨-, -, h⟩ | ⟨_, -, -, h⟩ | ⟨_, -, -, h⟩ <;> exact ⟨_, h, rfl, rfl⟩

theorem step_next (s : State) : ∃ t, step s = .next t ∧ t.inputs = s.inputs.tail ∧ t.config = s.config := by
  cases hr : s.presented.rst with
  | true => exact ⟨_, step_rst hr, rfl, rfl⟩
  | false =>
    rw [step_command hr]
    exact exec_next (decodeCommand s.presented.command) s.afterFetch

/-- A run of one more input is its first cycle, then the run of the rest from the state that cycle leads to. -/
theorem runInputs_cons (s : State) (x : Input) (xs : List Input) :
    ∃ t, step (s.withInputs (x :: xs)) = .next t ∧ t.config = s.config ∧
      runInputs s (x :: xs) =
        (cycleOutputs (s.withInputs (x :: xs)) t :: (runInputs t xs).1, (runInputs t xs).2) := by
  obtain ⟨t, hstep, hinputs, hconfig⟩ := step_next (s.withInputs (x :: xs))
  obtain rfl : t.inputs = xs := hinputs
  exact ⟨t, hstep, hconfig, observe_succ t.inputs.length hstep⟩

/-! ### The counters stay within one capacity of each other (R19 invariant 1) -/

/-- `0 <= head - tail <= CAPACITY`: all of the invariant that the queue of live elements depends on. -/
def State.InRange (s : State) : Prop := s.tail ≤ s.head ∧ s.head ≤ s.tail + s.config.capacity

theorem State.InRange.tail_le_head {s : State} (h : s.InRange) : s.tail ≤ s.head := h.1

theorem State.Inv.inRange {s : State} (h : s.Inv) : s.InRange := ⟨h.tail_le_head, h.head_le⟩

theorem State.InRange.insert {s : State} (hs : s.InRange) (hfull : s.full = false) (a v : Nat) :
    (s.memWrite a v).insertOne.InRange := by
  obtain ⟨hle, hcap⟩ := hs
  rw [State.full_eq_false] at hfull
  change s.tail ≤ s.head + 1 ∧ s.head + 1 ≤ s.tail + s.config.capacity
  omega

theorem State.InRange.remove {s : State} (hs : s.InRange) (hempty : s.empty = false) : s.removeOldest.InRange := by
  obtain ⟨hle, hcap⟩ := hs
  rw [State.empty_eq_false] at hempty
  change s.tail + 1 ≤ s.head ∧ s.head ≤ s.tail + 1 + s.config.capacity
  omega

/-! ### What each update does to the queue of live elements -/

theorem State.empty_eq_false_of_full {s : State} (hfull : s.full = true) : s.empty = false := by
  have hpos := s.config.capacity_pos
  rw [State.full_eq_true] at hfull
  rw [State.empty_eq_false]
  omega

theorem State.removeOldest_full {s : State} (hs : s.InRange) (hempty : s.empty = false) :
    s.removeOldest.full = false := by
  obtain ⟨hle, hcap⟩ := hs
  rw [State.empty_eq_false] at hempty
  rw [State.full_eq_false, State.removeOldest_head, State.removeOldest_tail, State.removeOldest_config]
  omega

@[simp] theorem State.answer_queue (s : State) (st : Status) : (s.answer st).queue = s.queue := rfl
@[simp] theorem State.raise_queue (s : State) (f : Failure) : (s.raise f).queue = s.queue := rfl
@[simp] theorem State.answerElement_queue (s : State) (v : Nat) : (s.answerElement v).queue = s.queue := rfl
@[simp] theorem State.afterFetch_queue (s : State) : s.afterFetch.queue = s.queue := rfl
@[simp] theorem State.withInputs_queue (s : State) (xs : List Input) : (s.withInputs xs).queue = s.queue := rfl
@[simp] theorem State.zeroCounters_queue (s : State) : s.zeroCounters.queue = [] := rfl
@[simp] theorem State.resetEdge_queue (s : State) : s.resetEdge.queue = [] := rfl
@[simp] theorem State.discardAll_queue (s : State) : s.discardAll.queue = [] := by
  simp [State.queue, State.count]

theorem State.queue_getElem? {s : State} {k : Nat} (h : k < s.count) : s.queue[k]? = some (s.memRead (s.slotOf k)) := by
  simp [State.queue, State.live, h]

theorem State.queue_eq_nil {s : State} (h : s.empty = true) : s.queue = [] := by
  rw [State.empty_eq_true] at h
  simp [State.queue, State.count, h]

/-- Removing the oldest element takes the head off the list; that element is the one at `rdSlot` (R81). -/
theorem State.queue_eq_cons {s : State} (hs : s.InRange) (hempty : s.empty = false) :
    s.queue = s.memRead s.rdSlot :: s.removeOldest.queue := by
  have hcount : s.count = s.removeOldest.count + 1 := by
    have hle := hs.tail_le_head
    rw [State.empty_eq_false] at hempty
    simp only [State.count, State.removeOldest_head, State.removeOldest_tail]
    omega
  have hlive (p : Nat) : s.live (p + 1) = s.removeOldest.live p := by
    simp [State.live, State.memRead, State.slotOf, Nat.add_assoc, Nat.add_comm 1 p]
  have hfirst : s.live 0 = s.memRead s.rdSlot := by simp [State.live, State.slotOf, State.rdSlot]
  simp [State.queue, hcount, List.range_succ_eq_map, hlive, hfirst, Function.comp_def]

/-- With room left, the slot of the next write holds no live element (R34). -/
theorem State.slotOf_ne_wrSlot {s : State} (hs : s.InRange) (hfull : s.full = false) {p : Nat} (hp : p < s.count) :
    s.slotOf p ≠ s.wrSlot := by
  obtain ⟨hle, hcap⟩ := hs
  rw [State.full_eq_false] at hfull
  unfold State.count at hp
  intro hslot
  have := eq_of_mod_eq (by omega) (by omega) hslot
  omega

/-- An insert with room left puts the element at the end of the list (R73). -/
theorem State.insert_queue {s : State} (hs : s.InRange) (hfull : s.full = false) (v : Nat) :
    ((s.memWrite s.wrSlot v).insertOne).queue = s.queue ++ [v] := by
  have hle := hs.tail_le_head
  have hcount : ((s.memWrite s.wrSlot v).insertOne).count = s.count + 1 := by
    simp only [State.count, State.insertOne_head, State.insertOne_tail, State.memWrite_head, State.memWrite_tail]
    omega
  have hlive (p : Nat) : ((s.memWrite s.wrSlot v).insertOne).live p = if s.slotOf p = s.wrSlot then v else s.live p :=
    Memory.element_write s.config.dataWidth s.storage s.wrSlot (s.slotOf p) v
  have hlast : s.slotOf s.count = s.wrSlot := by
    simp only [State.slotOf, State.wrSlot, State.count, Nat.add_sub_cancel' hle]
  have hkept : (List.range s.count).map ((s.memWrite s.wrSlot v).insertOne).live = s.queue :=
    List.map_congr_left fun p hp => by
      rw [hlive, if_neg (State.slotOf_ne_wrSlot hs hfull (List.mem_range.mp hp))]
  rw [State.queue, hcount, List.range_succ, List.map_append, hkept, List.map_singleton, hlive, if_pos hlast]

/-- An overwriting insert is a removal followed by an insert, as far as the queue goes (R76). -/
theorem State.replace_queue {s : State} (hs : s.InRange) (hfull : s.full = true) (v : Nat) :
    ((s.memWrite s.wrSlot v).replaceOldest).queue = s.queue.tail ++ [v] := by
  have hempty := State.empty_eq_false_of_full hfull
  calc ((s.memWrite s.wrSlot v).replaceOldest).queue
      = ((s.removeOldest.memWrite s.removeOldest.wrSlot v).insertOne).queue := rfl
    _ = s.removeOldest.queue ++ [v] := State.insert_queue (hs.remove hempty) (State.removeOldest_full hs hempty) v
    _ = s.queue.tail ++ [v] := by rw [State.queue_eq_cons hs hempty, List.tail_cons]

theorem State.InRange.replace {s : State} (hs : s.InRange) (hfull : s.full = true) (a v : Nat) :
    (s.memWrite a v).replaceOldest.InRange := by
  have hempty := State.empty_eq_false_of_full hfull
  exact (hs.remove hempty).insert (State.removeOldest_full hs hempty) a v

/-! ### One command, one cycle, one run -/

/-- The list's length decides "full" as the block's flag does. -/
theorem State.queue_length_eq_capacity {s : State} : s.queue.length = s.config.capacity ↔ s.full = true := by
  rw [State.queue_length, State.full_eq_true]; rfl

/-- Without reset, what is visible of a response depends on the decoded command alone. -/
theorem visibleResponse_command {x : Input} (h : x.rst = false) (r : Option Response) :
    visibleResponse x r = visibleResponse (.ofInstr (decodeCommand x.command)) r := by
  simp [visibleResponse, h, Input.ofInstr]

/-- The block's command and the list's agree on the list after it and on the visible response (R73 to R94), and the counters
stay in range. The cases are those of `exec_cases`, in its order. -/
theorem exec_simulates_fifoExec {i : Instr} {s t : State} (hs : s.InRange) (h : exec i s = .next t) :
    t.InRange ∧ t.queue = (fifoExec s.config.capacity i s.queue).1 ∧
      visibleResponse (.ofInstr i) t.response = some (fifoExec s.config.capacity i s.queue).2 := by
  rcases exec_cases i s with ⟨rfl, he⟩ | ⟨rfl, he⟩ | ⟨rfl, he⟩ | ⟨rfl, he⟩ | ⟨din, rfl, hfull, he⟩ |
    ⟨din, hi, hfull, he⟩ | ⟨din, rfl, hfull, he⟩ | ⟨rfl, hempty, he⟩ | ⟨rfl, hempty, he⟩ | ⟨k, rfl, hk, he⟩ |
    ⟨k, rfl, hk, he⟩ <;> cases h.symm.trans he
  · exact ⟨hs, rfl, rfl⟩
  · exact ⟨hs, rfl, rfl⟩
  · exact ⟨⟨le_rfl, Nat.le_add_right _ _⟩, State.discardAll_queue s, rfl⟩
  · exact ⟨⟨le_rfl, Nat.zero_le _⟩, rfl, rfl⟩
  · have hlen := State.queue_length_eq_capacity.mpr hfull
    rw [fifoExec, if_pos hlen]
    exact ⟨hs, rfl, rfl⟩
  · have hlen : s.queue.length ≠ s.config.capacity := by rw [Ne, State.queue_length_eq_capacity, hfull]; decide
    have hqueue := State.insert_queue hs hfull din
    have hrange := hs.insert hfull s.wrSlot din
    rcases hi with rfl | rfl <;> rw [fifoExec, if_neg hlen] <;> exact ⟨hrange, hqueue, rfl⟩
  · have hlen := State.queue_length_eq_capacity.mpr hfull
    rw [fifoExec, if_pos hlen]
    exact ⟨hs.replace hfull s.wrSlot din, State.replace_queue hs hfull din, rfl⟩
  · have hnil := State.queue_eq_nil hempty
    rw [hnil]
    exact ⟨hs, hnil, rfl⟩
  · rw [State.queue_eq_cons hs hempty]
    exact ⟨hs.remove hempty, rfl, rfl⟩
  · have hnone : s.queue[k]? = none := List.getElem?_eq_none (by simpa using hk)
    rw [fifoExec, hnone]
    exact ⟨hs, rfl, rfl⟩
  · rw [fifoExec, State.queue_getElem? hk]
    exact ⟨hs, rfl, rfl⟩

/-- One cycle of the block is one cycle of the list: the list after it, the Moore outputs before it and the response
(R46, R47). -/
theorem step_simulates_fifoCycle {s t : State} (hs : s.InRange) (h : step s = .next t) :
    t.InRange ∧ (t.queue, cycleOutputs s t) = fifoCycle s.config.capacity s.presented s.queue := by
  have hmoore := State.moore_eq_fifoMoore hs.tail_le_head
  cases hr : s.presented.rst with
  | true =>
    cases h.symm.trans (step_rst hr)
    refine ⟨⟨le_rfl, Nat.zero_le _⟩, ?_⟩
    simp [fifoCycle, hr, cycleOutputs, hmoore, visibleResponse]
  | false =>
    rw [step_command hr] at h
    have hfetch : s.afterFetch.InRange := hs
    obtain ⟨hrange, hqueue, hresponse⟩ := exec_simulates_fifoExec hfetch h
    refine ⟨hrange, ?_⟩
    simp only [State.afterFetch_queue, State.afterFetch_config] at hqueue hresponse
    simp [fifoCycle, hr, cycleOutputs, hmoore, visibleResponse_command hr, hresponse, hqueue]

/-- A run of the block is a run of the list, from every state whose counters are in range. -/
theorem runInputs_simulates_fifoRun (xs : List Input) {s : State} (hs : s.InRange) :
    ((runInputs s xs).1, (runInputs s xs).2.queue) = fifoRun s.config.capacity xs s.queue := by
  induction xs generalizing s with
  | nil => rfl
  | cons x xs ih =>
    obtain ⟨t, hstep, hconfig, hrun⟩ := runInputs_cons s x xs
    have hpending : (s.withInputs (x :: xs)).InRange := hs
    obtain ⟨hrange, hcycle⟩ := step_simulates_fifoCycle hpending hstep
    simp only [State.withInputs_config, State.presented_withInputs_cons, State.withInputs_queue] at hcycle
    have hrest := ih hrange
    rw [hconfig] at hrest
    simp only [fifoRun, ← hcycle, hrun, ← hrest]

/-! ### The statements of the scope -/

/-- Settles O42: by induction over the inputs, each cycle of the block simulated by one cycle of the list. Only the range of the
counters is needed of the invariant, and nothing of the inputs. -/
theorem everyRunActsAsOnAQueue : Obligations.EveryRunActsAsOnAQueue := by
  intro s xs hinv _
  rw [← runInputs_simulates_fifoRun xs hinv.inRange]
  exact ⟨rfl, rfl⟩

/-- Settles O7: a reset edge and every branch of every command end in a next state. -/
theorem everyStepIsEnabled : Obligations.EveryStepIsEnabled := step_next

/-- Settles O6: the input taken is the first one pending, the idle NOP where there is none. -/
theorem stepRunsThePresentedCommand : Obligations.StepRunsThePresentedCommand := by
  refine ⟨fun s x rest => step_command rfl, fun s => step_command rfl, fun s nbits w i hword => ?_⟩
  obtain rfl : decodeCommand (tableCommand nbits w) = i := Option.some.inj hword
  exact step_command rfl

end Sys2Proof.Machine

/-! SUPPORT. The state of the block (spec/10_state.md): the registers represent the counters, every step keeps the invariant,
the register machine and the counter machine agree, and slots without a live element are never observed. -/

namespace Sys2Proof.Machine

/-! ### The two ways a step goes -/

/-- Inversion of a step: a reset edge where the presented input carries no command (R113), else that command's meaning. -/
theorem step_cases (s : State) :
    (s.presented.instr = none ∧ step s = .next s.afterFetch.resetEdge) ∨
    ∃ i, s.presented.instr = some i ∧ step s = exec i s.afterFetch := by
  cases hr : s.presented.rst with
  | true => exact .inl ⟨by simp [Input.instr, hr], step_rst hr⟩
  | false => exact .inr ⟨_, by simp [Input.instr, hr], step_command hr⟩

theorem State.InRange.count_le {s : State} (hs : s.InRange) : s.count ≤ s.config.capacity := by
  obtain ⟨-, hcap⟩ := hs
  unfold State.count
  omega

/-! ### Live slots under an insert and a removal -/

/-- The slot of the next write is the one just past the newest live element (R18). -/
theorem State.slotOf_count {s : State} (hle : s.tail ≤ s.head) : s.slotOf s.count = s.wrSlot := by
  simp only [State.slotOf, State.wrSlot, State.count, Nat.add_sub_cancel' hle]

@[simp] theorem State.removeOldest_count (s : State) : s.removeOldest.count = s.count - 1 :=
  Nat.sub_add_eq s.head s.tail 1

@[simp] theorem State.removeOldest_slotOf (s : State) (p : Nat) : s.removeOldest.slotOf p = s.slotOf (p + 1) := by
  simp [State.slotOf, Nat.add_assoc, Nat.add_comm 1 p]

/-- After an insert a live slot is the one written or one that was live before. -/
theorem State.insert_live_cases {s : State} (hle : s.tail ≤ s.head) {a v p : Nat}
    (hp : p < (s.memWrite a v).insertOne.count) : p < s.count ∨ s.slotOf p = s.wrSlot := by
  change p < s.head + 1 - s.tail at hp
  rcases Nat.lt_or_ge p s.count with hlt | hge
  · exact .inl hlt
  · have hlast : p = s.count := by unfold State.count at hge ⊢; omega
    exact .inr (hlast ▸ State.slotOf_count hle)

/-! ### The registers represent the counters (R22) -/

theorem State.Represented.insert {s : State} (hs : s.Represented) (hle : s.tail ≤ s.head) (a v : Nat) :
    (s.memWrite a v).insertOne.Represented := by
  obtain ⟨hrd, hwr, hcnt⟩ := hs
  refine ⟨hrd, ?_, ?_⟩
  · change inc s.config.capacity s.regs.wrPtr = (s.head + 1) % s.config.capacity
    rw [hwr, inc_mod s.config.capacity_pos]
  · change s.regs.cnt + 1 = s.head + 1 - s.tail
    omega

theorem State.Represented.remove {s : State} (hs : s.Represented) : s.removeOldest.Represented := by
  obtain ⟨hrd, hwr, hcnt⟩ := hs
  refine ⟨?_, hwr, ?_⟩
  · change inc s.config.capacity s.regs.rdPtr = (s.tail + 1) % s.config.capacity
    rw [hrd, inc_mod s.config.capacity_pos]
  · change s.regs.cnt - 1 = s.head - (s.tail + 1)
    omega

theorem State.Represented.discard {s : State} (hs : s.Represented) : s.discardAll.Represented := by
  obtain ⟨-, hwr, -⟩ := hs
  exact ⟨hwr, hwr, (Nat.sub_self s.head).symm⟩

theorem State.zeroCounters_represented (s : State) : s.zeroCounters.Represented :=
  ⟨(Nat.zero_mod _).symm, (Nat.zero_mod _).symm, rfl⟩

theorem State.Represented.wrSlot_eq {s : State} (hs : s.Represented) : s.wrSlot = s.regs.wrPtr := by
  obtain ⟨-, hwr, -⟩ := hs
  exact hwr.symm

theorem State.Represented.rdSlot_eq {s : State} (hs : s.Represented) : s.rdSlot = s.regs.rdPtr := by
  obtain ⟨hrd, -, -⟩ := hs
  exact hrd.symm

theorem State.Represented.cnt_eq_count {s : State} (hs : s.Represented) : s.regs.cnt = s.count := by
  obtain ⟨-, -, hcnt⟩ := hs
  exact hcnt

/-- `cnt` alone decides "full", and with the counters in range "empty" (R26, R69, R70). -/
theorem State.Represented.cnt_eq_capacity {s : State} (hs : s.Represented) :
    s.regs.cnt = s.config.capacity ↔ s.full = true := by
  rw [hs.cnt_eq_count, State.full_eq_true, State.count]

theorem State.Represented.cnt_eq_zero {s : State} (hs : s.Represented) (hle : s.tail ≤ s.head) :
    s.regs.cnt = 0 ↔ s.empty = true := by
  rw [hs.cnt_eq_count, State.empty_eq_true, State.count]
  omega

/-- On a buffer with a live element an overwriting insert is a removal and an insert, registers included (R76, R77). -/
theorem State.replaceOldest_eq_removeOldest_insertOne {s : State} (hs : s.InRange) (hrep : s.Represented)
    (hempty : s.empty = false) (a v : Nat) :
    (s.memWrite a v).replaceOldest = (s.removeOldest.memWrite a v).insertOne := by
  have hcnt : s.regs.cnt ≠ 0 := by rw [Ne, hrep.cnt_eq_zero hs.tail_le_head, hempty]; decide
  have hregs : s.regs.replace s.config.capacity = (s.regs.remove s.config.capacity).insert s.config.capacity := by
    simp only [Registers.replace, Registers.remove, Registers.insert]
    rw [Nat.sub_add_cancel (Nat.pos_of_ne_zero hcnt)]
  exact congrArg (fun r => { (s.memWrite a v).replaceOldest with regs := r }) hregs

theorem State.Represented.replace {s : State} (hrep : s.Represented) (hs : s.InRange) (hfull : s.full = true)
    (a v : Nat) : (s.memWrite a v).replaceOldest.Represented := by
  have hempty := State.empty_eq_false_of_full hfull
  rw [State.replaceOldest_eq_removeOldest_insertOne hs hrep hempty]
  exact hrep.remove.insert (hs.remove hempty).tail_le_head a v

/-- Every command keeps the registers in step with the counters, whatever its operand is. -/
theorem exec_keeps_represented {i : Instr} {s t : State} (hs : s.InRange) (hrep : s.Represented)
    (h : exec i s = .next t) : t.Represented := by
  rcases exec_cases i s with ⟨-, he⟩ | ⟨-, he⟩ | ⟨-, he⟩ | ⟨-, he⟩ | ⟨din, -, -, he⟩ | ⟨din, -, -, he⟩ |
    ⟨din, -, hfull, he⟩ | ⟨-, -, he⟩ | ⟨-, -, he⟩ | ⟨k, -, -, he⟩ | ⟨k, -, -, he⟩ <;> cases h.symm.trans he
  · exact hrep
  · exact hrep
  · exact hrep.discard
  · exact s.zeroCounters_represented
  · exact hrep
  · exact hrep.insert hs.tail_le_head s.wrSlot din
  · exact hrep.replace hs hfull s.wrSlot din
  · exact hrep
  · exact hrep.remove
  · exact hrep
  · exact hrep

/-! ### The register machine and the counter machine (R22) -/

/-- The Moore outputs are those the registers drive (R67 to R70). -/
theorem State.moore_eq_registers_moore {s : State} (hle : s.tail ≤ s.head) (hrep : s.Represented) :
    s.moore = s.regs.moore s.config.capacity := by
  have hfull : s.full = decide (s.regs.cnt = s.config.capacity) := by simp [hrep.cnt_eq_capacity]
  have hempty : s.empty = decide (s.regs.cnt = 0) := by simp [hrep.cnt_eq_zero hle]
  rw [State.moore, Registers.moore, ← hfull, ← hempty, hrep.cnt_eq_count, State.remaining]

/-- Logical position `k` from the oldest, addressed by the registers (R85). -/
theorem State.Represented.slotOf_eq_addWrap {s : State} (hrep : s.Represented) {k : Nat}
    (hk : k ≤ s.config.capacity) : s.slotOf k = addWrap s.config.capacity s.regs.rdPtr k := by
  obtain ⟨hrd, -, -⟩ := hrep
  rw [hrd, addWrap_mod s.config.capacity_pos hk, State.slotOf]

/-- One command of the counter machine is one command of the register machine: same storage, registers and visible response.
The cases are those of `exec_cases`, in its order. -/
theorem exec_simulates_registerExec {i : Instr} {s t : State} (hs : s.InRange) (hrep : s.Represented)
    (h : exec i s = .next t) :
    t.storage = (registerExec s.config i s.storage s.regs).storage ∧
      t.regs = (registerExec s.config i s.storage s.regs).regs ∧
      visibleResponse (.ofInstr i) t.response = some ((registerExec s.config i s.storage s.regs).status,
        (registerExec s.config i s.storage s.regs).dout) := by
  have hcap := hrep.cnt_eq_capacity
  have hzero := hrep.cnt_eq_zero hs.tail_le_head
  have hcount := hrep.cnt_eq_count
  have hwr := hrep.wrSlot_eq
  have hrd := hrep.rdSlot_eq
  rcases exec_cases i s with ⟨rfl, he⟩ | ⟨rfl, he⟩ | ⟨rfl, he⟩ | ⟨rfl, he⟩ | ⟨din, rfl, hfull, he⟩ |
    ⟨din, hi, hfull, he⟩ | ⟨din, rfl, hfull, he⟩ | ⟨rfl, hempty, he⟩ | ⟨rfl, hempty, he⟩ | ⟨k, rfl, hk, he⟩ |
    ⟨k, rfl, hk, he⟩ <;> cases h.symm.trans he
  · exact ⟨rfl, rfl, rfl⟩
  · exact ⟨rfl, rfl, rfl⟩
  · exact ⟨rfl, rfl, rfl⟩
  · exact ⟨rfl, rfl, rfl⟩
  · rw [registerExec, registerPush, if_pos (hcap.mpr hfull)]
    exact ⟨rfl, rfl, rfl⟩
  · have hroom : s.regs.cnt ≠ s.config.capacity := by rw [Ne, hcap, hfull]; decide
    rw [hwr]
    rcases hi with rfl | rfl
    · rw [registerExec, registerPush, if_neg hroom]
      exact ⟨rfl, rfl, rfl⟩
    · rw [registerExec, registerPushov, if_neg hroom, if_neg hroom]
      exact ⟨rfl, rfl, rfl⟩
  · rw [hwr, registerExec, registerPushov, if_pos (hcap.mpr hfull), if_pos (hcap.mpr hfull)]
    exact ⟨rfl, rfl, rfl⟩
  · rw [registerExec, registerPop, if_pos (hzero.mpr hempty)]
    exact ⟨rfl, rfl, rfl⟩
  · have hlive : s.regs.cnt ≠ 0 := by rw [Ne, hzero, hempty]; decide
    rw [hrd, registerExec, registerPop, if_neg hlive]
    exact ⟨rfl, rfl, rfl⟩
  · rw [registerExec, registerPeek, if_pos (hcount ▸ hk)]
    exact ⟨rfl, rfl, rfl⟩
  · have hkcap : k ≤ s.config.capacity := by
      have hle := hs.count_le
      omega
    rw [hrep.slotOf_eq_addWrap hkcap, registerExec, registerPeek, if_neg (by omega)]
    exact ⟨rfl, rfl, rfl⟩

/-- What a visible response says of the recorded one: the status, and the element exactly where R55 defines `dout`. -/
theorem State.answers_of_visibleResponse {t : State} {i : Instr} {st : Status} {d : Option Nat}
    (h : visibleResponse (.ofInstr i) t.response = some (st, d)) :
    t.Answers st ∧ (∀ v, d = some v → t.Returns v) ∧ (i.returnsElement = true → st = .ok → d.isSome) := by
  cases hr : t.response with
  | none => simp [visibleResponse, Input.ofInstr, hr] at h
  | some a =>
    simp only [visibleResponse, Input.ofInstr, hr, decodeCommand_encodeCommand, Option.map_some, Option.some.injEq,
      Prod.mk.injEq, Bool.false_eq_true, if_false] at h
    obtain ⟨rfl, rfl⟩ := h
    refine ⟨⟨a, hr, rfl⟩, fun v hv => ?_, fun hi hok => by simp [hi, hok]⟩
    split at hv
    · next hdef =>
      obtain ⟨-, hok⟩ := by simpa using hdef
      cases hv
      rw [State.Returns, hr, ← hok]
    · cases hv

/-! ### Every step keeps the invariant -/

theorem State.initial_inv (c : Config) : (State.initial c).Inv where
  tail_le_head := le_rfl
  head_le := Nat.zero_le _
  represented := (State.initial c).zeroCounters_represented
  storage_wf := rfl
  storage_fits := rfl
  live_written := fun p hp => absurd hp (Nat.not_lt_zero p)
  inputs_fit := by simp [State.initial]
  response_fits := by simp [State.initial]

theorem State.Inv.answer {s : State} (hs : s.Inv) (st : Status) : (s.answer st).Inv :=
  { hs with response_fits := by rintro r ⟨⟩; exact BitVec.isLt _ }

theorem State.Inv.answerElement {s : State} (hs : s.Inv) (a : Nat) : (s.answerElement (s.memRead a)).Inv :=
  { hs with response_fits := by rintro r ⟨⟩; exact Memory.element_lt hs.storage_fits a }

theorem State.Inv.afterFetch {s : State} (hs : s.Inv) : s.afterFetch.Inv :=
  { hs with inputs_fit := fun x hx => hs.inputs_fit x (List.mem_of_mem_tail hx) }

theorem State.Inv.zero {s : State} (hs : s.Inv) : s.zeroCounters.Inv :=
  { hs with
    tail_le_head := le_rfl
    head_le := Nat.zero_le _
    represented := s.zeroCounters_represented
    live_written := fun p hp => absurd hp (Nat.not_lt_zero p) }

theorem State.Inv.reset {s : State} (hs : s.Inv) : s.resetEdge.Inv :=
  { hs.zero with response_fits := by rintro r ⟨⟩ }

theorem State.Inv.discard {s : State} (hs : s.Inv) : s.discardAll.Inv :=
  { hs with
    tail_le_head := le_rfl
    head_le := Nat.le_add_right _ _
    represented := hs.represented.discard
    live_written := fun p hp => absurd hp (by simp [State.count]) }

theorem State.Inv.insert {s : State} (hs : s.Inv) (hfull : s.full = false) {v : Nat}
    (hv : v < 2 ^ s.config.dataWidth) : (s.memWrite s.wrSlot v).insertOne.Inv := by
  obtain ⟨hle, hcap⟩ := hs.inRange.insert hfull s.wrSlot v
  have hlive : ∀ p, p < (s.memWrite s.wrSlot v).insertOne.count →
      (Memory.read (Memory.write s.storage s.wrSlot v) (s.slotOf p)).isSome := by
    intro p hp
    rw [Memory.read_write]
    split
    · rfl
    · next hne => exact hs.live_written p ((State.insert_live_cases hs.tail_le_head hp).resolve_right hne)
  exact { hs with
    tail_le_head := hle
    head_le := hcap
    represented := hs.represented.insert hs.tail_le_head s.wrSlot v
    storage_wf := Memory.wf_write s.wrSlot v hs.storage_wf
    storage_fits := Memory.fits_write s.wrSlot_lt hv hs.storage_fits
    live_written := hlive }

theorem State.Inv.remove {s : State} (hs : s.Inv) (hempty : s.empty = false) : s.removeOldest.Inv := by
  obtain ⟨hle, hcap⟩ := hs.inRange.remove hempty
  have hlive : ∀ p, p < s.removeOldest.count → (Memory.read s.storage (s.removeOldest.slotOf p)).isSome := by
    intro p hp
    rw [State.removeOldest_count] at hp
    rw [State.removeOldest_slotOf]
    exact hs.live_written (p + 1) (by omega)
  exact { hs with
    tail_le_head := hle
    head_le := hcap
    represented := hs.represented.remove
    live_written := hlive }

theorem State.Inv.replace {s : State} (hs : s.Inv) (hfull : s.full = true) {v : Nat}
    (hv : v < 2 ^ s.config.dataWidth) : (s.memWrite s.wrSlot v).replaceOldest.Inv := by
  have hempty := State.empty_eq_false_of_full hfull
  rw [State.replaceOldest_eq_removeOldest_insertOne hs.inRange hs.represented hempty]
  exact (hs.remove hempty).insert (State.removeOldest_full hs.inRange hempty) hv

/-- Every command with an operand its port carries keeps the invariant. -/
theorem exec_keeps_inv {i : Instr} {s t : State} (hs : s.Inv) (hi : i.wellFormed s.config = true)
    (h : exec i s = .next t) : t.Inv := by
  have hdin (din : Nat) (hcmd : i = .push din ∨ i = .pushov din) : din < 2 ^ s.config.dataWidth := by
    rcases hcmd with rfl | rfl <;> exact of_decide_eq_true hi
  rcases exec_cases i s with ⟨-, he⟩ | ⟨-, he⟩ | ⟨-, he⟩ | ⟨-, he⟩ | ⟨din, -, -, he⟩ | ⟨din, hcmd, hfull, he⟩ |
    ⟨din, hcmd, hfull, he⟩ | ⟨-, -, he⟩ | ⟨-, hempty, he⟩ | ⟨k, -, -, he⟩ | ⟨k, -, -, he⟩ <;> cases h.symm.trans he
  · exact hs.answer _
  · exact hs.answer _
  · exact hs.discard.answer _
  · exact hs.zero.answer _
  · exact hs.answer _
  · exact (hs.insert hfull (hdin din hcmd)).answer _
  · exact (hs.replace hfull (hdin din (.inr hcmd))).answer _
  · exact hs.answer _
  · exact (hs.remove hempty).answerElement s.rdSlot
  · exact hs.answer _
  · exact hs.answerElement _

/-- The input of this cycle fits the ports, the idle one included. -/
theorem State.Inv.presented_fits {s : State} (hs : s.Inv) : s.presented.fits s.config = true := by
  cases hin : s.inputs with
  | nil =>
    rw [State.presented, hin]
    exact fits_encodeCommand rfl
  | cons x xs =>
    rw [State.presented, hin]
    exact hs.inputs_fit x (by simp [hin])

theorem Input.instr_wellFormed {c : Config} {x : Input} {i : Instr} (hx : x.fits c = true) (h : x.instr = some i) :
    i.wellFormed c = true := by
  rw [Input.instr] at h
  split at h
  · cases h
  · cases h
    exact wellFormed_decodeCommand hx

theorem step_keeps_inv {s t : State} (hs : s.Inv) (h : step s = .next t) : t.Inv := by
  rcases step_cases s with ⟨-, hstep⟩ | ⟨i, hi, hstep⟩
  · cases h.symm.trans hstep
    exact hs.afterFetch.reset
  · exact exec_keeps_inv hs.afterFetch (Input.instr_wellFormed hs.presented_fits hi) (hstep.symm.trans h)

/-! ### Slots without a live element (R30) -/

theorem State.SameLive.count_eq {s t : State} (h : s.SameLive t) : s.count = t.count := by
  obtain ⟨-, hhead, htail, -, -⟩ := h
  rw [State.count, State.count, hhead, htail]

theorem State.SameLive.full_eq {s t : State} (h : s.SameLive t) : s.full = t.full := by
  obtain ⟨hconfig, -⟩ := id h
  rw [State.full, State.full, h.count_eq, hconfig]

theorem State.SameLive.empty_eq {s t : State} (h : s.SameLive t) : s.empty = t.empty := by
  obtain ⟨-, hhead, htail, -, -⟩ := h
  rw [State.empty, State.empty, hhead, htail]

theorem State.SameLive.slotOf_eq {s t : State} (h : s.SameLive t) (p : Nat) : s.slotOf p = t.slotOf p := by
  obtain ⟨hconfig, -, htail, -, -⟩ := h
  rw [State.slotOf, State.slotOf, htail, hconfig]

theorem State.SameLive.wrSlot_eq {s t : State} (h : s.SameLive t) : s.wrSlot = t.wrSlot := by
  obtain ⟨hconfig, hhead, -⟩ := h
  rw [State.wrSlot, State.wrSlot, hhead, hconfig]

/-- The live elements are all that the queue depends on. -/
theorem State.SameLive.queue_eq {s t : State} (h : s.SameLive t) : s.queue = t.queue := by
  obtain ⟨hconfig, -, -, -, hread⟩ := id h
  rw [State.queue, State.queue, ← h.count_eq]
  refine List.map_congr_left fun p hp => ?_
  rw [State.live, State.live, State.memRead, State.memRead, Memory.element, Memory.element,
    hread p (List.mem_range.mp hp), hconfig, h.slotOf_eq]

theorem State.SameLive.inRange {s t : State} (h : s.SameLive t) (hs : s.InRange) : t.InRange := by
  obtain ⟨hconfig, hhead, htail, -, -⟩ := h
  rwa [State.InRange, ← hconfig, ← hhead, ← htail]

theorem State.SameLive.zero {s t : State} (h : s.SameLive t) : s.zeroCounters.SameLive t.zeroCounters := by
  obtain ⟨hconfig, -⟩ := h
  exact ⟨hconfig, rfl, rfl, rfl, fun p hp => absurd hp (Nat.not_lt_zero p)⟩

theorem State.SameLive.discard {s t : State} (h : s.SameLive t) : s.discardAll.SameLive t.discardAll := by
  obtain ⟨hconfig, hhead, -, hregs, -⟩ := h
  exact ⟨hconfig, hhead, hhead, congrArg Registers.discard hregs, fun p hp => absurd hp (by simp [State.count])⟩

theorem State.SameLive.remove {s t : State} (h : s.SameLive t) : s.removeOldest.SameLive t.removeOldest := by
  obtain ⟨hconfig, hhead, htail, hregs, hread⟩ := h
  refine ⟨hconfig, hhead, congrArg (· + 1) htail, by simp [hregs, hconfig], fun p hp => ?_⟩
  rw [State.removeOldest_count] at hp
  rw [State.removeOldest_slotOf]
  exact hread (p + 1) (by omega)

/-- An insert writes the same element into the same slot of both states; every other live slot was live before. -/
theorem State.SameLive.insert {s t : State} (h : s.SameLive t) (hle : s.tail ≤ s.head) (v : Nat) :
    (s.memWrite s.wrSlot v).insertOne.SameLive (t.memWrite t.wrSlot v).insertOne := by
  obtain ⟨hconfig, hhead, htail, hregs, hread⟩ := id h
  refine ⟨hconfig, congrArg (· + 1) hhead, htail, by simp [hregs, hconfig], fun p hp => ?_⟩
  change Memory.read (Memory.write s.storage s.wrSlot v) (s.slotOf p) =
    Memory.read (Memory.write t.storage t.wrSlot v) (s.slotOf p)
  rw [Memory.read_write, Memory.read_write, ← h.wrSlot_eq]
  rcases State.insert_live_cases hle hp with hlive | hlast
  · rw [hread p hlive]
  · rw [if_pos hlast, if_pos hlast]

/-- Slot by slot an overwriting insert is a removal and an insert. -/
theorem State.SameLive.replace {s t : State} (h : s.SameLive t) (hs : s.InRange) (hfull : s.full = true) (v : Nat) :
    (s.memWrite s.wrSlot v).replaceOldest.SameLive (t.memWrite t.wrSlot v).replaceOldest := by
  have hremoved := hs.remove (State.empty_eq_false_of_full hfull)
  obtain ⟨hconfig, hhead, htail, -, hread⟩ := h.remove.insert hremoved.tail_le_head v
  obtain ⟨hc, -, -, hregs, -⟩ := h
  exact ⟨hconfig, hhead, htail, by simp [hregs, hc], hread⟩

/-- A command takes the same branch in both states. The cases are those of `exec_cases`, in its order. -/
theorem exec_keeps_sameLive {i : Instr} {s t s' t' : State} (hs : s.InRange) (h : s.SameLive t)
    (hs' : exec i s = .next s') (ht' : exec i t = .next t') : s'.SameLive t' := by
  have hcount := h.count_eq
  rcases exec_cases i s with ⟨rfl, he⟩ | ⟨rfl, he⟩ | ⟨rfl, he⟩ | ⟨rfl, he⟩ | ⟨din, rfl, hfull, he⟩ |
    ⟨din, hi, hfull, he⟩ | ⟨din, rfl, hfull, he⟩ | ⟨rfl, hempty, he⟩ | ⟨rfl, hempty, he⟩ | ⟨k, rfl, hk, he⟩ |
    ⟨k, rfl, hk, he⟩ <;> cases hs'.symm.trans he
  · cases ht'
    exact h
  · cases ht'
    exact h
  · cases ht'
    exact h.discard
  · cases ht'
    exact h.zero
  · cases ht'.symm.trans (execPush_full (h.full_eq ▸ hfull))
    exact h
  · have hfullt : t.full = false := h.full_eq ▸ hfull
    have hinsert := h.insert hs.tail_le_head din
    rcases hi with rfl | rfl
    · cases ht'.symm.trans (execPush_room hfullt)
      exact hinsert
    · cases ht'.symm.trans (execPushov_room hfullt)
      exact hinsert
  · cases ht'.symm.trans (execPushov_full (h.full_eq ▸ hfull))
    exact h.replace hs hfull din
  · cases ht'.symm.trans (execPop_empty (h.empty_eq ▸ hempty))
    exact h
  · cases ht'.symm.trans (execPop_live (h.empty_eq ▸ hempty))
    exact h.remove
  · cases ht'.symm.trans (execPeek_out (hcount ▸ hk))
    exact h
  · cases ht'.symm.trans (execPeek_in (hcount ▸ hk))
    exact h

theorem step_keeps_sameLive {s t s' t' : State} (hs : s.InRange) (h : s.SameLive t)
    (hpresented : s.presented = t.presented) (hs' : step s = .next s') (ht' : step t = .next t') : s'.SameLive t' := by
  have hfetched : s.afterFetch.SameLive t.afterFetch := h
  cases hr : s.presented.rst with
  | true =>
    cases hs'.symm.trans (step_rst hr)
    cases ht'.symm.trans (step_rst (hpresented ▸ hr))
    exact hfetched.zero
  | false =>
    rw [step_command hr] at hs'
    rw [step_command (hpresented ▸ hr), ← hpresented] at ht'
    have hrange : s.afterFetch.InRange := hs
    exact exec_keeps_sameLive hrange hfetched hs' ht'

/-- The outputs of a cycle are those of a cycle of the queue, and the queue is made of live elements alone. -/
theorem cycleOutputs_eq_of_sameLive {s t s' t' : State} (hs : s.InRange) (h : s.SameLive t)
    (hpresented : s.presented = t.presented) (hs' : step s = .next s') (ht' : step t = .next t') :
    cycleOutputs s s' = cycleOutputs t t' := by
  obtain ⟨-, houts⟩ := step_simulates_fifoCycle hs hs'
  obtain ⟨-, houtt⟩ := step_simulates_fifoCycle (h.inRange hs) ht'
  obtain ⟨hconfig, -⟩ := id h
  rw [← hconfig, ← hpresented, ← h.queue_eq, ← houts] at houtt
  exact (congrArg Prod.snd houtt).symm

theorem observe_eq_of_sameLive (n : Nat) {s t : State} (hs : s.InRange) (h : s.SameLive t)
    (hinputs : s.inputs = t.inputs) :
    (observe n s).1 = (observe n t).1 ∧ (observe n s).2.SameLive (observe n t).2 := by
  induction n generalizing s t with
  | zero => exact ⟨rfl, h⟩
  | succ n ih =>
    obtain ⟨s', hs', hins, -⟩ := step_next s
    obtain ⟨t', ht', hint, -⟩ := step_next t
    have hpresented : s.presented = t.presented := by rw [State.presented, State.presented, hinputs]
    obtain ⟨hrange, -⟩ := step_simulates_fifoCycle hs hs'
    obtain ⟨houtputs, hlive⟩ := ih hrange (step_keeps_sameLive hs h hpresented hs' ht') (by rw [hins, hint, hinputs])
    rw [observe_succ n hs', observe_succ n ht', houtputs, cycleOutputs_eq_of_sameLive hs h hpresented hs' ht']
    exact ⟨rfl, hlive⟩

/-! ### The ranges of the registers (R23, R26) -/

theorem State.Inv.regs_inRange {s : State} (hs : s.Inv) :
    s.regs.rdPtr < s.config.capacity ∧ s.regs.wrPtr < s.config.capacity ∧ s.regs.cnt ≤ s.config.capacity ∧
      s.regs.wrPtr = (s.regs.rdPtr + s.regs.cnt) % s.config.capacity := by
  have hcount := hs.inRange.count_le
  obtain ⟨hrd, hwr, hcnt⟩ := hs.represented
  refine ⟨?_, ?_, hcnt ▸ hcount, ?_⟩
  · exact hrd ▸ Nat.mod_lt _ s.config.capacity_pos
  · exact hwr ▸ Nat.mod_lt _ s.config.capacity_pos
  · rw [hwr, hrd, hcnt, Nat.mod_add_mod, Nat.add_sub_cancel' hs.tail_le_head]

/-- Two counters at most one capacity apart have the same slot only when they are equal or one capacity apart. -/
theorem State.InRange.slots_eq_iff {s : State} (hs : s.InRange) :
    s.wrSlot = s.rdSlot ↔ s.count = 0 ∨ s.count = s.config.capacity := by
  obtain ⟨hle, hcap⟩ := hs
  unfold State.wrSlot State.rdSlot State.count
  constructor
  · intro hslot
    by_cases hlt : s.head < s.tail + s.config.capacity
    · have := eq_of_mod_eq hle hlt hslot.symm
      omega
    · omega
  · rintro (hempty | hfull)
    · rw [show s.head = s.tail by omega]
    · rw [show s.head = s.tail + s.config.capacity by omega, Nat.add_mod_right]

/-! ### The statements of the family -/

/-- Settles O10: no slot is live, no input is pending, and all counters and registers are 0. -/
theorem resetMeetsTheInvariant : Obligations.ResetMeetsTheInvariant := by
  refine ⟨fun c => ⟨State.initial_inv c, ?_, rfl⟩, State.initial_inv Config.reference⟩
  have hfull : (State.initial c).full = false := by
    have hpos := c.capacity_pos
    rw [State.full_eq_false]
    change 0 - 0 ≠ c.capacity
    omega
  rw [State.moore, hfull]
  rfl

/-- Settles O34: each update keeps each part of the invariant, and the operand of the presented command fits its port. -/
theorem everyStepKeepsTheInvariant : Obligations.EveryStepKeepsTheInvariant := by
  intro s hs
  obtain ⟨t, ht, -, -⟩ := step_next s
  exact ⟨t, ht, step_keeps_inv hs ht⟩

/-- Settles O23: a simulation, command by command, with the registers representing the counters as the relation. -/
theorem registerMachineRefinesCounters : Obligations.RegisterMachineRefinesCounters := by
  refine ⟨fun c => (State.initial_inv c).represented, fun s i hs => ?_⟩
  obtain ⟨t, ht, -, hconfig⟩ := exec_next i s
  obtain ⟨hrange, -, -⟩ := exec_simulates_fifoExec hs.inRange ht
  have hrep := exec_keeps_represented hs.inRange hs.represented ht
  obtain ⟨hstorage, hregs, hvisible⟩ := exec_simulates_registerExec hs.inRange hs.represented ht
  obtain ⟨hstatus, hdout, hdefined⟩ := State.answers_of_visibleResponse hvisible
  have hmoore := State.moore_eq_registers_moore hrange.tail_le_head hrep
  rw [hconfig, hregs] at hmoore
  exact ⟨t, ht, hstatus, hdout, hdefined, hstorage, hregs, hrep, hmoore⟩

/-- Settles O45: by induction over the cycles; of the invariant only the range of the counters is needed. -/
theorem deadSlotsAreNeverObserved : Obligations.DeadSlotsAreNeverObserved :=
  fun _ _ n hs h hinputs => observe_eq_of_sameLive n hs.inRange h hinputs

/-- Settles O24: the head of each branch of each command, and of a reset edge. -/
theorem headChangesOnlyByInsertsResetRelease : Obligations.HeadChangesOnlyByInsertsResetRelease := by
  intro s
  rcases step_cases s with ⟨hi, hstep⟩ | ⟨i, hi, hstep⟩
  · exact ⟨_, hstep, by simp [hi]⟩
  rw [hi, hstep]
  rcases exec_cases i s.afterFetch with ⟨rfl, he⟩ | ⟨rfl, he⟩ | ⟨rfl, he⟩ | ⟨rfl, he⟩ | ⟨din, rfl, hfull, he⟩ |
    ⟨din, rfl | rfl, hfull, he⟩ | ⟨din, rfl, hfull, he⟩ | ⟨rfl, hempty, he⟩ | ⟨rfl, hempty, he⟩ | ⟨k, rfl, hk, he⟩ |
    ⟨k, rfl, hk, he⟩
  · exact ⟨_, he, rfl⟩
  · exact ⟨_, he, rfl⟩
  · exact ⟨_, he, rfl⟩
  · exact ⟨_, he, rfl⟩
  · exact ⟨_, he, (if_pos hfull).symm⟩
  · exact ⟨_, he, (if_neg (Bool.eq_false_iff.mp hfull)).symm⟩
  · exact ⟨_, he, rfl⟩
  · exact ⟨_, he, rfl⟩
  · exact ⟨_, he, rfl⟩
  · exact ⟨_, he, rfl⟩
  · exact ⟨_, he, rfl⟩
  · exact ⟨_, he, rfl⟩

/-- Settles O25: the tail of each branch of each command, and of a reset edge. -/
theorem tailChangesOnlyByRemovalsFlushResetRelease : Obligations.TailChangesOnlyByRemovalsFlushResetRelease := by
  intro s
  rcases step_cases s with ⟨hi, hstep⟩ | ⟨i, hi, hstep⟩
  · exact ⟨_, hstep, by simp [hi]⟩
  rw [hi, hstep]
  rcases exec_cases i s.afterFetch with ⟨rfl, he⟩ | ⟨rfl, he⟩ | ⟨rfl, he⟩ | ⟨rfl, he⟩ | ⟨din, rfl, hfull, he⟩ |
    ⟨din, rfl | rfl, hfull, he⟩ | ⟨din, rfl, hfull, he⟩ | ⟨rfl, hempty, he⟩ | ⟨rfl, hempty, he⟩ | ⟨k, rfl, hk, he⟩ |
    ⟨k, rfl, hk, he⟩
  · exact ⟨_, he, rfl⟩
  · exact ⟨_, he, rfl⟩
  · exact ⟨_, he, rfl⟩
  · exact ⟨_, he, rfl⟩
  · exact ⟨_, he, rfl⟩
  · exact ⟨_, he, rfl⟩
  · exact ⟨_, he, (if_neg (Bool.eq_false_iff.mp hfull)).symm⟩
  · exact ⟨_, he, (if_pos hfull).symm⟩
  · exact ⟨_, he, (if_pos hempty).symm⟩
  · exact ⟨_, he, (if_neg (Bool.eq_false_iff.mp hempty)).symm⟩
  · exact ⟨_, he, rfl⟩
  · exact ⟨_, he, rfl⟩

/-- Settles O35: read off the case tables of `head` and `tail`; FLUSH moves `tail` up to `head`. -/
theorem countersNeverDecreaseWithinALifetime : Obligations.CountersNeverDecreaseWithinALifetime := by
  intro s hs hrst hrelease
  obtain ⟨t, ht, hhead⟩ := headChangesOnlyByInsertsResetRelease s
  obtain ⟨u, hu, htail⟩ := tailChangesOnlyByRemovalsFlushResetRelease s
  cases ht.symm.trans hu
  refine ⟨t, ht, ?_⟩
  have hle := hs.tail_le_head
  have hinstr : s.presented.instr = some (decodeCommand s.presented.command) := by simp [Input.instr, hrst]
  rw [hinstr] at hhead htail
  generalize decodeCommand s.presented.command = i at hrelease hhead htail
  cases i with
  | nop | peek _ | illegal => exact ⟨hhead.ge, htail.ge⟩
  | push _ =>
    refine ⟨?_, htail.ge⟩
    dsimp only at hhead
    split at hhead <;> omega
  | pushov _ =>
    refine ⟨(Nat.le_succ s.head).trans hhead.ge, ?_⟩
    dsimp only at htail
    split at htail <;> omega
  | pop =>
    refine ⟨hhead.ge, ?_⟩
    dsimp only at htail
    split at htail <;> omega
  | flush => exact ⟨hhead.ge, hle.trans htail.ge⟩
  | release => exact absurd rfl hrelease

/-- Settles O36: the ranges follow from the invariant, which reset and every step give. -/
theorem registersStayInRange : Obligations.RegistersStayInRange := by
  refine ⟨fun s hs => ?_, fun c => (State.initial_inv c).regs_inRange⟩
  obtain ⟨t, ht, htinv⟩ := everyStepKeepsTheInvariant s hs
  exact ⟨t, ht, htinv.regs_inRange⟩

/-- Settles O37: the pointers are the slots of the counters, and `cnt` is the count. -/
theorem equalPointersMeanEmptyOrFull : Obligations.EqualPointersMeanEmptyOrFull := by
  intro s hs
  have hrep := hs.represented
  have hslots := hs.inRange.slots_eq_iff
  rw [hrep.wrSlot_eq, hrep.rdSlot_eq, ← hrep.cnt_eq_count] at hslots
  obtain ⟨hrd, hwr, -, -⟩ := hs.regs_inRange
  exact ⟨hslots, fun hone => ⟨by omega, by omega⟩, by simp [hrep.cnt_eq_zero hs.tail_le_head],
    by simp [hrep.cnt_eq_capacity]⟩

/-- Settles O39: the wraps are `mod CAPACITY`, and the widths of R9 are the least sufficient ones. -/
theorem pointerArithmeticIsModular : Obligations.PointerArithmeticIsModular := by
  refine ⟨fun n w => ⟨fun h => (le_two_pow_clog2 n).trans (Nat.pow_le_pow_right (by decide) h), clog2_le⟩,
    fun c t k p => ?_⟩
  have hcount : k ≤ c.capacity → k < 2 ^ c.cntWidth := c.count_lt_two_pow_cntWidth
  have hsum (hp : p < c.capacity) (hk : k ≤ c.capacity) : p + k < 2 ^ (c.cntWidth + 1) := by
    have hp' := c.count_lt_two_pow_cntWidth hp.le
    have hk' := hcount hk
    rw [Nat.pow_succ]
    omega
  exact ⟨inc_mod c.capacity_pos t, fun hk => addWrap_mod c.capacity_pos hk t, fun hp hk => ⟨by omega, hsum hp hk⟩,
    fun hp => ⟨inc_lt hp, c.slot_lt_two_pow_ptrWidth hp⟩, hcount⟩

end Sys2Proof.Machine

/-! SUPPORT. The storage (spec/20_memory.md): which slot a step writes, which accepted insert a slot holds, and runs one after
the other. -/

namespace Sys2Proof.Machine

/-! ### The accepted inserts of the lifetime (R45) -/

theorem insertsAfter_reset {x : Input} (s : State) (v : List Nat) (h : x.instr = none) : insertsAfter s x v = [] := by
  unfold Input.instr at h
  split at h
  · next hrst => exact if_pos hrst
  · cases h

/-- The inserts depend on the command of the cycle alone, not on the ports that carried it. -/
theorem insertsAfter_command {x : Input} {i : Instr} (s : State) (v : List Nat) (h : x.instr = some i) :
    insertsAfter s x v = insertsAfter s (Input.ofInstr i) v := by
  unfold Input.instr at h
  split at h
  · cases h
  · next hrst =>
    cases h
    simp [insertsAfter, Input.ofInstr, hrst]

theorem insertsAfter_push_full {s : State} (v : List Nat) (din : Nat) (hfull : s.full = true) :
    insertsAfter s (Input.ofInstr (.push din)) v = v := if_pos hfull

theorem insertsAfter_push_room {s : State} (v : List Nat) (din : Nat) (hfull : s.full = false) :
    insertsAfter s (Input.ofInstr (.push din)) v = v ++ [din] := if_neg (Bool.eq_false_iff.mp hfull)

/-! ### What each update does to the inserts a state holds (R45) -/

/-- A lifetime that has just begun has no insert to hold. -/
theorem State.holds_nil {s : State} (hhead : s.head = 0) : s.Holds [] :=
  ⟨hhead.symm, fun k hk => absurd hk (hhead ▸ Nat.not_lt_zero k)⟩

/-- An insert overwrites the slot of an insert that is no longer among the last `CAPACITY`. -/
theorem State.Holds.insert {s : State} {v : List Nat} (hs : s.Holds v) (din : Nat) :
    (s.memWrite s.wrSlot din).insertOne.Holds (v ++ [din]) := by
  obtain ⟨hlength, hread⟩ := hs
  refine ⟨by simp [hlength], fun k hk hlast => ?_⟩
  change k < s.head + 1 at hk
  change s.head + 1 ≤ k + s.config.capacity at hlast
  change Memory.read (Memory.write s.storage s.wrSlot din) (k % s.config.capacity) = (v ++ [din])[k]?
  rw [Memory.read_write]
  rcases Nat.lt_succ_iff_lt_or_eq.mp hk with hold | rfl
  · have hslot : k % s.config.capacity ≠ s.wrSlot := fun heq =>
      hold.ne (eq_of_mod_eq hold.le (by omega) heq)
    rw [if_neg hslot, hread k hold (by omega), List.getElem?_append_left (hlength ▸ hold)]
  · have hslot : s.head % s.config.capacity = s.wrSlot := rfl
    rw [if_pos hslot, ← hlength, List.getElem?_concat_length]

/-- Only inserts and RELEASE change what the slots hold or `head`. The cases are those of `exec_cases`, in its order. -/
theorem exec_keeps_holds {i : Instr} {s t : State} {v : List Nat} (hs : s.Holds v) (h : exec i s = .next t) :
    t.Holds (insertsAfter s (Input.ofInstr i) v) := by
  rcases exec_cases i s with ⟨rfl, he⟩ | ⟨rfl, he⟩ | ⟨rfl, he⟩ | ⟨rfl, he⟩ | ⟨din, rfl, hfull, he⟩ |
    ⟨din, rfl | rfl, hfull, he⟩ | ⟨din, rfl, hfull, he⟩ | ⟨rfl, hempty, he⟩ | ⟨rfl, hempty, he⟩ | ⟨k, rfl, hk, he⟩ |
    ⟨k, rfl, hk, he⟩ <;> cases h.symm.trans he
  · exact hs
  · exact hs
  · exact hs
  · exact State.holds_nil rfl
  · rw [insertsAfter_push_full v din hfull]
    exact hs
  · rw [insertsAfter_push_room v din hfull]
    exact hs.insert din
  · exact hs.insert din
  · exact hs.insert din
  · exact hs
  · exact hs
  · exact hs
  · exact hs

theorem step_keeps_holds {s t : State} {v : List Nat} (hs : s.Holds v) (h : step s = .next t) :
    t.Holds (insertsAfter s s.presented v) := by
  rcases step_cases s with ⟨hi, hstep⟩ | ⟨i, hi, hstep⟩
  · cases h.symm.trans hstep
    rw [insertsAfter_reset s v hi]
    exact State.holds_nil rfl
  · have hfetched : s.afterFetch.Holds v := hs
    have hafter := exec_keeps_holds hfetched (hstep.symm.trans h)
    rw [insertsAfter_command s v hi]
    exact hafter

/-- The live elements are the last inserts, at most `CAPACITY` of them. -/
theorem State.Holds.live {s : State} {v : List Nat} (hs : s.Holds v) (hrange : s.InRange) {i : Nat} (hi : i < s.count) :
    v[s.tail + i]? = some (s.live i) := by
  obtain ⟨hlength, hread⟩ := hs
  obtain ⟨-, hcap⟩ := hrange
  have hlt : s.tail + i < s.head := Nat.add_lt_of_lt_sub' hi
  have hslot : Memory.read s.storage (s.slotOf i) = v[s.tail + i]? := hread _ hlt (by omega)
  rw [List.getElem?_eq_getElem (hlength ▸ hlt)] at hslot ⊢
  exact congrArg some (Memory.element_of_read hslot).symm

/-! ### A step sees no later input (R43) -/

/-- No command looks at the inputs still to come. The cases are those of `exec_cases`, in its order. -/
theorem exec_withInputs {i : Instr} {s t : State} (xs : List Input) (h : exec i s = .next t) :
    exec i (s.withInputs xs) = .next (t.withInputs xs) := by
  rcases exec_cases i s with ⟨rfl, he⟩ | ⟨rfl, he⟩ | ⟨rfl, he⟩ | ⟨rfl, he⟩ | ⟨din, rfl, hfull, he⟩ |
    ⟨din, rfl | rfl, hfull, he⟩ | ⟨din, rfl, hfull, he⟩ | ⟨rfl, hempty, he⟩ | ⟨rfl, hempty, he⟩ | ⟨k, rfl, hk, he⟩ |
    ⟨k, rfl, hk, he⟩ <;> cases h.symm.trans he
  · rfl
  · rfl
  · rfl
  · rfl
  · exact execPush_full hfull
  · exact execPush_room hfull
  · exact execPushov_room hfull
  · exact execPushov_full hfull
  · exact execPop_empty hempty
  · exact execPop_live hempty
  · exact execPeek_out hk
  · exact execPeek_in hk

/-- A step takes the first input and leaves the rest, whatever they are. -/
theorem step_withInputs_cons {s t : State} {x : Input} (h : step (s.withInputs [x]) = .next t) (xs : List Input) :
    step (s.withInputs (x :: xs)) = .next (t.withInputs xs) := by
  cases hr : x.rst with
  | true =>
    cases h.symm.trans (step_rst hr)
    exact step_rst hr
  | false =>
    have hcommand (ys : List Input) : step (s.withInputs (x :: ys)) = exec (decodeCommand x.command) (s.withInputs ys) :=
      step_command hr
    exact (hcommand xs).trans (exec_withInputs (s := s.withInputs []) xs ((hcommand []).symm.trans h))

/-- A run is its first cycle, which the inputs after it do not change, then the run of the rest. -/
theorem runInputs_cons_of_step {s t : State} {x : Input} (h : step (s.withInputs [x]) = .next t) (xs : List Input) :
    runInputs s (x :: xs) = (cycleOutputs (s.withInputs [x]) t :: (runInputs t xs).1, (runInputs t xs).2) :=
  observe_succ xs.length (step_withInputs_cons h xs)

theorem runInputs_append (s : State) (xs ys : List Input) :
    runInputs s (xs ++ ys) = ((runInputs s xs).1 ++ (runInputs (runInputs s xs).2 ys).1,
      (runInputs (runInputs s xs).2 ys).2) := by
  induction xs generalizing s with
  | nil => rfl
  | cons x xs ih =>
    obtain ⟨t, hstep, -, -⟩ := step_next (s.withInputs [x])
    rw [List.cons_append, runInputs_cons_of_step hstep, runInputs_cons_of_step hstep, ih t, List.cons_append]

/-! ### The statements of the family -/

/-- Settles O40: an invariant of the step, whose one case with content is an insert (`State.Holds.insert`). -/
theorem storageHoldsTheLastInserts : Obligations.StorageHoldsTheLastInserts := by
  refine ⟨fun c => State.holds_nil rfl, fun s v hs => ?_, fun s v hinv hs i hi => hs.live hinv.inRange hi⟩
  obtain ⟨t, ht, -, -⟩ := step_next s
  exact ⟨t, ht, step_keeps_holds hs ht⟩

/-- Settles O26: the storage of each branch of each command, and of a reset edge. -/
theorem storageIsWrittenOnlyByInserts : Obligations.StorageIsWrittenOnlyByInserts := by
  intro s
  rcases step_cases s with ⟨hi, hstep⟩ | ⟨i, hi, hstep⟩
  · exact ⟨_, hstep, fun a => by simp [hi]⟩
  rw [hi, hstep]
  rcases exec_cases i s.afterFetch with ⟨rfl, he⟩ | ⟨rfl, he⟩ | ⟨rfl, he⟩ | ⟨rfl, he⟩ | ⟨din, rfl, hfull, he⟩ |
    ⟨din, rfl | rfl, hfull, he⟩ | ⟨din, rfl, hfull, he⟩ | ⟨rfl, hempty, he⟩ | ⟨rfl, hempty, he⟩ | ⟨k, rfl, hk, he⟩ |
    ⟨k, rfl, hk, he⟩
  · exact ⟨_, he, fun a => rfl⟩
  · exact ⟨_, he, fun a => rfl⟩
  · exact ⟨_, he, fun a => rfl⟩
  · exact ⟨_, he, fun a => rfl⟩
  · have hrefused (a : Nat) : ¬(s.full = false ∧ a = s.wrSlot) := fun h => Bool.false_ne_true (h.1.symm.trans hfull)
    exact ⟨_, he, fun a => (if_neg (hrefused a)).symm⟩
  · have haccepted (a : Nat) : a = s.wrSlot ↔ s.full = false ∧ a = s.wrSlot := (and_iff_right hfull).symm
    exact ⟨_, he, fun a => (Memory.read_write _ _ a din).trans (if_congr (haccepted a) rfl rfl)⟩
  · exact ⟨_, he, fun a => Memory.read_write _ _ a din⟩
  · exact ⟨_, he, fun a => Memory.read_write _ _ a din⟩
  · exact ⟨_, he, fun a => rfl⟩
  · exact ⟨_, he, fun a => rfl⟩
  · exact ⟨_, he, fun a => rfl⟩
  · exact ⟨_, he, fun a => rfl⟩

/-- Settles O47: the two components of the run of a concatenation. -/
theorem runsComposeInOrder : Obligations.RunsComposeInOrder := by
  intro s xs ys
  rw [runInputs_append]
  exact ⟨rfl, rfl⟩

end Sys2Proof.Machine

/-! SUPPORT. The encoding of the commands (spec/30_encoding.md): the command word and its fields, the fields a command ignores,
and when the outputs of a cycle are seen. -/

namespace Sys2Proof

/-! ### The command code and the operands that are read (R48, R51) -/

/-- The opcode map selects the command of the code on `cmd`, whatever the operand ports carry. -/
@[simp] theorem opcode_decodeCommand (x : Command) : (decodeCommand x).opcode = x.cmd := by
  obtain ⟨cmd, offset, din⟩ := x
  rcases cmdCode_cases cmd with rfl | rfl | rfl | rfl | rfl | rfl | rfl | rfl <;> rfl

/-- The decoded command takes `offset` for PEEK alone and `din` for PUSH and PUSHOV alone. -/
theorem decodeCommand_congr {x y : Command} (hcmd : x.cmd = y.cmd) (hoffset : x.cmd = 4 → x.offset = y.offset)
    (hdin : x.cmd = 1 ∨ x.cmd = 2 → x.din = y.din) : decodeCommand x = decodeCommand y := by
  obtain ⟨cmd, offset, din⟩ := x
  obtain ⟨_, offset', din'⟩ := y
  obtain rfl := hcmd
  rcases cmdCode_cases cmd with rfl | rfl | rfl | rfl | rfl | rfl | rfl | rfl
  · rfl
  · exact congrArg Instr.push (hdin (.inl rfl))
  · exact congrArg Instr.pushov (hdin (.inr rfl))
  · rfl
  · exact congrArg Instr.peek (hoffset rfl)
  · rfl
  · rfl
  · rfl

/-! ### The fields of a command word (R57) -/

/-- Ports that fit make a word of `3 + CNT_W + DATA_WIDTH` bits. -/
theorem joinWord_lt {c : Config} {x : Command} (h : x.fits c = true) : joinWord c x < 2 ^ c.wordWidth := by
  simp only [Command.fits, Bool.and_eq_true, decide_eq_true_eq] at h
  obtain ⟨hoffset, hdin⟩ := h
  have hoperands : x.offset * 2 ^ c.dataWidth + x.din < 2 ^ (c.cntWidth + c.dataWidth) := by
    rw [Nat.pow_add, Nat.mul_comm x.offset]
    exact Nat.mul_add_lt_mul_of_lt_of_lt hoffset hdin
  rw [joinWord, Config.wordWidth, Nat.add_assoc, Nat.add_assoc, Nat.pow_add 2 3, Nat.mul_comm x.cmd.toNat]
  exact Nat.mul_add_lt_mul_of_lt_of_lt x.cmd.isLt hoperands

theorem splitWord_fits (c : Config) (w : Nat) : (splitWord c w).fits c = true := by
  simp [Command.fits, splitWord, Nat.mod_lt]

/-- The code of a word of the width is its top three bits. -/
theorem splitWord_cmd_toNat {c : Config} {w : Nat} (h : w < 2 ^ c.wordWidth) :
    (splitWord c w).cmd.toNat = w / 2 ^ (c.cntWidth + c.dataWidth) := by
  rw [Config.wordWidth, Nat.add_assoc, Nat.add_comm, Nat.pow_add] at h
  exact (BitVec.toNat_ofNat _ _).trans (Nat.mod_eq_of_lt (Nat.div_lt_of_lt_mul h))

theorem decodeWord_of_lt {c : Config} {w : Nat} (h : w < 2 ^ c.wordWidth) :
    decodeWord c w = .ok (decodeCommand (splitWord c w)) := if_pos h

theorem decodeWord_of_le {c : Config} {w : Nat} (h : 2 ^ c.wordWidth ≤ w) :
    decodeWord c w = .error .wordTooWide := if_neg (Nat.not_lt.mpr h)

/-- The word of a command's fields is that command's canonical word. -/
theorem encode_eq_of_fields {c : Config} {w : Nat} {i : Instr} (hw : w < 2 ^ c.wordWidth)
    (hcode : i.opcode = (splitWord c w).cmd) (hoffset : i.offsetField = (splitWord c w).offset)
    (hdin : i.dinField = (splitWord c w).din) : encode c i = w := by
  rw [encode, encodeCommand, hcode, hoffset, hdin]
  exact splitWord_join c hw

end Sys2Proof

namespace Sys2Proof.Machine

/-! ### What a cycle reads of its input, and what it shows (R47, R48) -/

/-- A step reads of the presented input whether it resets and which command it decodes to. -/
theorem step_congr_input {x y : Input} (hrst : x.rst = y.rst)
    (hdecode : decodeCommand x.command = decodeCommand y.command) (s : State) (rest : List Input) :
    step (s.withInputs (x :: rest)) = step (s.withInputs (y :: rest)) := by
  obtain ⟨hcommand, -, -⟩ := stepRunsThePresentedCommand
  obtain ⟨rst, cx⟩ := x
  obtain ⟨_, cy⟩ := y
  obtain rfl := hrst
  cases rst with
  | true => exact Eq.trans (step_rst rfl) (Eq.symm (step_rst rfl))
  | false => rw [hcommand, hcommand, hdecode]

theorem visibleResponse_congr_input {x y : Input} (hrst : x.rst = y.rst)
    (hdecode : decodeCommand x.command = decodeCommand y.command) (r : Option Response) :
    visibleResponse x r = visibleResponse y r := by
  simp only [visibleResponse, hrst, hdecode]

/-- The inputs to come are not seen on the Moore outputs. -/
@[simp] theorem State.withInputs_moore (s : State) (xs : List Input) : (s.withInputs xs).moore = s.moore := rfl

theorem observe_congr_input {x y : Input} (hrst : x.rst = y.rst)
    (hdecode : decodeCommand x.command = decodeCommand y.command) (s : State) (rest : List Input) (n : Nat) :
    (observe n (s.withInputs (x :: rest))).1 = (observe n (s.withInputs (y :: rest))).1 := by
  cases n with
  | zero => rfl
  | succ n =>
    obtain ⟨t, hx, -, -⟩ := step_next (s.withInputs (x :: rest))
    have hy : step (s.withInputs (y :: rest)) = .next t := (step_congr_input hrst hdecode s rest).symm.trans hx
    have hcycle : cycleOutputs (s.withInputs (x :: rest)) t = cycleOutputs (s.withInputs (y :: rest)) t :=
      congrArg (CycleOutputs.mk s.moore) (visibleResponse_congr_input hrst hdecode t.response)
    rw [observe_succ n hx, observe_succ n hy, hcycle]

/-! ### The status codes (R53, R54) -/

/-- The status of a code, read back from the port; a number that is no code is read as the last. -/
def Status.ofCode : Nat → Status
  | 0 => .ok
  | 1 => .bufferFull
  | 2 => .bufferEmpty
  | 3 => .outOfRange
  | _ => .illegalCommand

theorem Status.ofCode_code (st : Status) : Status.ofCode st.code.toNat = st := by cases st <;> rfl

theorem Status.code_ofCode {n : Nat} (h : n < 5) : (Status.ofCode n).code.toNat = n := by interval_cases n <;> rfl

theorem Status.code_lt (st : Status) : st.code.toNat < 5 := by cases st <;> decide

/-! ### The statements of the family -/

/-- Settles O1: the ports of a well-formed command fit, so their word has the width and gives the ports back, which decode to the
command. -/
theorem commandWordRoundTrip : Obligations.CommandWordRoundTrip := by
  intro c i hi
  have hfits : (encodeCommand i).fits c = true := fits_encodeCommand hi
  have hlt : encode c i < 2 ^ c.wordWidth := joinWord_lt hfits
  refine ⟨hlt, ?_⟩
  calc decodeWord c (encode c i)
      = .ok (decodeCommand (splitWord c (joinWord c (encodeCommand i)))) := decodeWord_of_lt hlt
    _ = .ok i := by rw [joinWord_split c _ hfits, decodeCommand_encodeCommand]

/-- Settles O2: the fields of any word fit the ports, and the two clauses split at the width. -/
theorem everyCommandWordDecodes : Obligations.EveryCommandWordDecodes := by
  refine fun c w => ⟨fun hw => ?_, decodeWord_of_le⟩
  have hcode := opcode_decodeCommand (splitWord c w)
  refine ⟨_, decodeWord_of_lt hw, wellFormed_decodeCommand (splitWord_fits c w), ?_, encode_eq_of_fields hw hcode⟩
  rw [hcode, splitWord_cmd_toNat hw]

/-- Settles O3: the opcode map case by case, and the reset branch of the step. -/
theorem decodingDependsOnCmdAlone : Obligations.DecodingDependsOnCmdAlone :=
  ⟨opcode_decodeCommand, fun _ _ _ => step_rst rfl⟩

/-- Settles O5: the two inputs decode to the same command, and a cycle reads nothing else of them but `rst`. -/
theorem ignoredFieldsHaveNoEffect : Obligations.IgnoredFieldsHaveNoEffect := by
  intro s x y rest hrst hcmd hoffset hdin
  have hdecode := decodeCommand_congr hcmd hoffset hdin
  exact ⟨step_congr_input hrst hdecode s rest, observe_congr_input hrst hdecode s rest⟩

/-- Settles O48: by induction over the inputs; the first cycle shows the state it starts from. -/
theorem mooreOutputsShowTheStateBeforeTheCommand : Obligations.MooreOutputsShowTheStateBeforeTheCommand := by
  intro s xs
  induction xs generalizing s with
  | nil => exact fun k hk => absurd hk (Nat.not_lt_zero k)
  | cons x xs ih =>
    intro k hk
    obtain ⟨t, hstep, -, -⟩ := step_next (s.withInputs [x])
    rw [runInputs_cons_of_step hstep]
    cases k with
    | zero => rfl
    | succ k =>
      rw [List.take_succ_cons, runInputs_cons_of_step hstep, List.getElem?_cons_succ]
      exact ih t k (Nat.lt_of_succ_lt_succ hk)

/-- Settles O4: the nine words evaluated. -/
theorem specWordsDecode : Obligations.SpecWordsDecode :=
  ⟨rfl, rfl, rfl, rfl, rfl, rfl, rfl, rfl, rfl⟩

/-- Settles O31: `Status.ofCode` reads every code back, so the codes 0 to 4 and the status values are in bijection. -/
theorem statusCodesFiveToSevenNeverAppear : Obligations.StatusCodesFiveToSevenNeverAppear := by
  refine ⟨fun s => ?_, Status.code_lt, fun a b hab => ?_, fun n hn => ⟨.ofCode n, Status.code_ofCode hn⟩⟩
  · obtain ⟨t, hstep, -, -⟩ := step_next s
    exact ⟨t, hstep, fun r _ => r.status.code_lt⟩
  · rw [← Status.ofCode_code a, hab, Status.ofCode_code]

end Sys2Proof.Machine

/-! SUPPORT. Construction, RELEASE and FLUSH (spec/40_lifecycle.md): what CREATE builds, the outputs of an empty block, and why
no run tells two blocks in the same state apart. -/

namespace Sys2Proof.Machine

/-! ### Blocks in the same state look the same (R65) -/

/-- States of the same block differ in the inputs to come and in what is recorded of the last cycle alone. -/
theorem State.SameBlock.eq_record {s t : State} (h : s.SameBlock t) :
    t = { s with inputs := t.inputs, response := t.response, draws := t.draws } := by
  obtain ⟨hconfig, hstorage, hhead, htail, hregs⟩ := h
  rw [hconfig, hstorage, hhead, htail, hregs]

/-- A command reads neither the inputs to come nor what is recorded of the last cycle: with others in their place it takes the
same branch, leaves the same block and shows the same response. The cases are those of `exec_cases`, in its order. -/
theorem exec_record {i : Instr} {s s' : State} (h : exec i s = .next s') (xs : List Input) (r : Option Response) (n : Nat) :
    ∃ r' n', exec i { s with inputs := xs, response := r, draws := n } =
        .next { s' with inputs := xs, response := r', draws := n' } ∧
      visibleResponse (.ofInstr i) s'.response = visibleResponse (.ofInstr i) r' := by
  rcases exec_cases i s with ⟨rfl, he⟩ | ⟨rfl, he⟩ | ⟨rfl, he⟩ | ⟨rfl, he⟩ | ⟨din, rfl, hfull, he⟩ |
    ⟨din, rfl | rfl, hfull, he⟩ | ⟨din, rfl, hfull, he⟩ | ⟨rfl, hempty, he⟩ | ⟨rfl, hempty, he⟩ | ⟨k, rfl, hk, he⟩ |
    ⟨k, rfl, hk, he⟩ <;> cases h.symm.trans he
  · exact ⟨_, _, rfl, rfl⟩
  · exact ⟨_, _, rfl, rfl⟩
  · exact ⟨_, _, rfl, rfl⟩
  · exact ⟨_, _, rfl, rfl⟩
  · exact ⟨_, _, execPush_full hfull, rfl⟩
  · exact ⟨_, _, execPush_room hfull, rfl⟩
  · exact ⟨_, _, execPushov_room hfull, rfl⟩
  · exact ⟨_, _, execPushov_full hfull, rfl⟩
  · exact ⟨_, _, execPop_empty hempty, rfl⟩
  · exact ⟨_, _, execPop_live hempty, rfl⟩
  · exact ⟨_, _, execPeek_out hk, rfl⟩
  · exact ⟨_, _, execPeek_in hk, rfl⟩

/-- One command from the same block. -/
theorem exec_keeps_sameBlock {i : Instr} {s t s' t' : State} (h : s.SameBlock t) (hs' : exec i s = .next s')
    (ht' : exec i t = .next t') :
    s'.SameBlock t' ∧ visibleResponse (.ofInstr i) s'.response = visibleResponse (.ofInstr i) t'.response := by
  obtain ⟨r, n, he, hvisible⟩ := exec_record hs' t.inputs t.response t.draws
  rw [← h.eq_record] at he
  cases ht'.symm.trans he
  exact ⟨⟨rfl, rfl, rfl, rfl, rfl⟩, hvisible⟩

theorem State.SameBlock.moore_eq {s t : State} (h : s.SameBlock t) : s.moore = t.moore := by
  rw [h.eq_record]; rfl

theorem State.SameBlock.zero {s t : State} (h : s.SameBlock t) : s.zeroCounters.SameBlock t.zeroCounters := by
  obtain ⟨hconfig, hstorage, -, -, -⟩ := h
  exact ⟨hconfig, hstorage, rfl, rfl, rfl⟩

/-- One cycle with the same input from the same block. -/
theorem step_keeps_sameBlock {s t s' t' : State} (h : s.SameBlock t) (hpresented : s.presented = t.presented)
    (hs' : step s = .next s') (ht' : step t = .next t') :
    s'.SameBlock t' ∧ cycleOutputs s s' = cycleOutputs t t' := by
  have hfetched : s.afterFetch.SameBlock t.afterFetch := h
  rw [cycleOutputs, cycleOutputs, h.moore_eq, ← hpresented]
  cases hr : s.presented.rst with
  | true =>
    cases hs'.symm.trans (step_rst hr)
    cases ht'.symm.trans (step_rst (hpresented ▸ hr))
    exact ⟨hfetched.zero, rfl⟩
  | false =>
    rw [step_command hr] at hs'
    rw [step_command (hpresented ▸ hr), ← hpresented] at ht'
    obtain ⟨hblock, hvisible⟩ := exec_keeps_sameBlock hfetched hs' ht'
    rw [visibleResponse_command hr, visibleResponse_command hr, hvisible]
    exact ⟨hblock, rfl⟩

theorem observe_eq_of_sameBlock (n : Nat) {s t : State} (h : s.SameBlock t) (hinputs : s.inputs = t.inputs) :
    (observe n s).1 = (observe n t).1 ∧ (observe n s).2.SameBlock (observe n t).2 := by
  induction n generalizing s t with
  | zero => exact ⟨rfl, h⟩
  | succ n ih =>
    obtain ⟨s', hs', hins, -⟩ := step_next s
    obtain ⟨t', ht', hint, -⟩ := step_next t
    have hpresented : s.presented = t.presented := by rw [State.presented, State.presented, hinputs]
    obtain ⟨hblock, hcycle⟩ := step_keeps_sameBlock h hpresented hs' ht'
    obtain ⟨houtputs, hfinal⟩ := ih hblock (by rw [hins, hint, hinputs])
    rw [observe_succ n hs', observe_succ n ht', houtputs, hcycle]
    exact ⟨rfl, hfinal⟩

/-- No sequence of inputs tells two blocks in the same state apart. -/
theorem runInputs_eq_of_sameBlock (xs : List Input) {s t : State} (h : s.SameBlock t) :
    (runInputs s xs).1 = (runInputs t xs).1 ∧ (runInputs s xs).2.SameBlock (runInputs t xs).2 :=
  observe_eq_of_sameBlock xs.length (s := s.withInputs xs) (t := t.withInputs xs) h rfl

/-! ### RELEASE and FLUSH -/

theorem exec_release (s : State) : exec .release s = .next (s.zeroCounters.answer .ok) := rfl

theorem exec_flush (s : State) : exec .flush s = .next (s.discardAll.answer .ok) := rfl

/-- The outputs of a block with no live element (R31, R67 to R70). -/
theorem State.moore_of_head_eq_tail {s : State} (h : s.head = s.tail) :
    s.moore = ⟨0, s.config.capacity, false, true⟩ := by
  have hpos : 0 ≠ s.config.capacity := Nat.ne_of_lt s.config.capacity_pos
  rw [State.moore_eq_fifoMoore h.ge, State.queue_eq_nil (State.empty_eq_true.mpr h)]
  simp [fifoMoore, hpos]

/-- A released block is in the state of a reset one (R63). -/
theorem State.zeroCounters_answer_sameBlock_resetEdge (s : State) (st : Status) :
    (s.zeroCounters.answer st).SameBlock s.resetEdge := ⟨rfl, rfl, rfl, rfl, rfl⟩

/-- Releasing a released block leaves it as it is (R65). -/
theorem State.zeroCounters_answer_twice_sameBlock (s : State) (st : Status) :
    ((s.zeroCounters.answer st).zeroCounters.answer st).SameBlock (s.zeroCounters.answer st) :=
  ⟨rfl, rfl, rfl, rfl, rfl⟩

/-! ### CREATE (R61, R62, R96) -/

theorem create_of_lt {capacity : Int} (h : capacity < 1) (dataWidth : Nat) :
    create capacity dataWidth = .fault .invalidCapacity := dif_pos h

theorem create_of_dataWidth_lt {capacity : Int} (h : 1 ≤ capacity) {dataWidth : Nat} (hw : dataWidth < 1) :
    create capacity dataWidth = .refused .illegalDataWidth :=
  (dif_neg (Int.not_lt.mpr h)).trans (dif_pos hw)

/-- A legal capacity and width build the post-reset state of the block with those parameters. -/
theorem create_eq_initial (c : Config) : create c.capacity c.dataWidth = .next (State.initial c) := by
  have hc : ¬(c.capacity : Int) < 1 := Int.not_lt.mpr (Int.ofNat_le.mpr c.capacity_pos)
  exact (dif_neg hc).trans (dif_neg (Nat.not_lt.mpr c.dataWidth_pos))

/-! ### The statements of the family -/

/-- Settles O46: a released block is in the state of a reset one, and the outputs of a run are a function of that state and the
inputs. -/
theorem releasedAndResetBlocksLookTheSame : Obligations.ReleasedAndResetBlocksLookTheSame := by
  intro s
  have hreset := s.zeroCounters_answer_sameBlock_resetEdge .ok
  have hreleased : (s.zeroCounters.answer .ok).moore = ⟨0, s.config.capacity, false, true⟩ :=
    State.moore_of_head_eq_tail rfl
  have hflushed : (s.discardAll.answer .ok).moore = ⟨0, s.config.capacity, false, true⟩ :=
    State.moore_of_head_eq_tail rfl
  exact ⟨_, _, _, exec_release s, exec_release _, s.zeroCounters_answer_twice_sameBlock .ok,
    fun xs => runInputs_eq_of_sameBlock xs hreset, exec_flush s, rfl, rfl,
    hflushed.trans hreleased.symm, rfl, rfl, Nat.zero_mod _⟩

/-- Settles O9: the three branches of CREATE; what the last one builds is the initial state of its configuration. -/
theorem createBuildsAnEmptyBlockOrFails : Obligations.CreateBuildsAnEmptyBlockOrFails := by
  refine fun capacity dataWidth => ⟨fun h => create_of_lt h dataWidth, fun hc hw => create_of_dataWidth_lt hc hw,
    fun hc hw => ?_⟩
  obtain ⟨n, rfl⟩ := Int.eq_ofNat_of_zero_le (Int.le_trans Int.one_nonneg hc)
  have hn : 1 ≤ n := Int.ofNat_le.mp hc
  exact ⟨_, create_eq_initial ⟨n, dataWidth, hn, hw⟩, rfl, rfl, rfl, rfl, State.moore_of_head_eq_tail rfl,
    State.initial_inv _⟩

/-- Settles O18: RELEASE answers OK on the block with its counters zeroed, which is the block a reset leaves. -/
theorem releaseZeroesTheCounters : Obligations.ReleaseZeroesTheCounters :=
  ⟨fun _ _ => rfl, fun s => ⟨_, exec_release s, ⟨_, rfl, rfl⟩, rfl, rfl, rfl, rfl, rfl, State.moore_of_head_eq_tail rfl,
    s.zeroCounters_answer_sameBlock_resetEdge .ok, _, exec_release _, s.zeroCounters_answer_twice_sameBlock .ok⟩⟩

/-- Settles O22: the registers of the two updates; neither writes a slot. -/
theorem releaseAndFlushRegisterLevel : Obligations.ReleaseAndFlushRegisterLevel :=
  fun s => ⟨⟨_, exec_release s, rfl, rfl⟩, _, exec_flush s, rfl, rfl⟩

end Sys2Proof.Machine

/-! SUPPORT. The queries and flags (spec/41_queries.md): how `remaining`, `full` and `empty` follow from `count`. -/

namespace Sys2Proof.Machine

/-! ### The queries and flags by `count` (R72) -/

theorem State.InRange.count_add_remaining {s : State} (hs : s.InRange) : s.count + s.remaining = s.config.capacity :=
  Nat.add_sub_cancel' hs.count_le

theorem State.full_iff_count_eq_capacity {s : State} : s.full = true ↔ s.count = s.config.capacity := State.full_eq_true

theorem State.InRange.empty_iff_count_eq_zero {s : State} (hs : s.InRange) : s.empty = true ↔ s.count = 0 := by
  rw [State.empty_eq_true, State.count, Nat.sub_eq_zero_iff_le]
  exact ⟨le_of_eq, fun hle => hle.antisymm hs.tail_le_head⟩

theorem State.not_full_and_empty (s : State) : ¬(s.full = true ∧ s.empty = true) := fun ⟨hfull, hempty⟩ =>
  Bool.false_ne_true ((State.empty_eq_false_of_full hfull).symm.trans hempty)

/-- A block of one slot has no state between empty and full. -/
theorem State.InRange.full_iff_not_empty_of_capacity_one {s : State} (hs : s.InRange) (hone : s.config.capacity = 1) :
    s.full = true ↔ ¬s.empty = true := by
  have hle := hs.count_le
  rw [State.full_iff_count_eq_capacity, hs.empty_iff_count_eq_zero]
  omega

/-! ### The statement of the family -/

/-- Settles O38: `count` and `remaining` share out the capacity and decide the flags; the bounds are kept by every step because
the invariant is. -/
theorem queryRelations : Obligations.QueryRelations := by
  intro s hs
  have hrange := hs.inRange
  have hsum := hrange.count_add_remaining
  have hnext : ∃ t, step s = .next t ∧ t.tail ≤ t.head ∧ t.count ≤ s.config.capacity := by
    obtain ⟨t, ht, -, hconfig⟩ := step_next s
    have htrange := (step_keeps_inv hs ht).inRange
    exact ⟨t, ht, htrange.tail_le_head, hconfig ▸ htrange.count_le⟩
  exact ⟨hsum, hrange.empty_iff_count_eq_zero, by omega, State.full_iff_count_eq_capacity, by omega,
    s.not_full_and_empty, hrange.full_iff_not_empty_of_capacity_one, hrange.tail_le_head, hrange.count_le, hnext⟩

end Sys2Proof.Machine

/-! SUPPORT. The insert commands (spec/42_push.md): what an insert and an overwriting insert make of the count, the flags and the
live elements. -/

namespace Sys2Proof.Machine

/-! ### What an answer says -/

theorem State.answer_answers (s : State) (st : Status) : (s.answer st).Answers st := ⟨_, rfl, rfl⟩

/-- Raising a failure changes nothing but the response and the draw counter (R103). -/
theorem State.raise_onlyAnswers (s : State) (f : Failure) : s.OnlyAnswers (s.raise f) f.status :=
  ⟨_, _, BitVec.isLt _, rfl⟩

/-! ### The count and the flags after an insert (R73, R76) -/

theorem State.insert_count {s : State} (hle : s.tail ≤ s.head) (a v : Nat) :
    (s.memWrite a v).insertOne.count = s.count + 1 := Nat.sub_add_comm hle

theorem State.insert_empty {s : State} (hle : s.tail ≤ s.head) (a v : Nat) :
    (s.memWrite a v).insertOne.empty = false :=
  State.empty_eq_false.mpr (Nat.lt_succ_of_le hle).ne'

/-- Both counters advance, so neither the count nor a flag changes. -/
theorem State.replace_count (s : State) (a v : Nat) : (s.memWrite a v).replaceOldest.count = s.count :=
  Nat.add_sub_add_right s.head 1 s.tail

theorem State.replace_full (s : State) (a v : Nat) : (s.memWrite a v).replaceOldest.full = s.full := by
  rw [State.full, State.full, State.replace_count]
  rfl

theorem State.replace_empty (s : State) (a v : Nat) : (s.memWrite a v).replaceOldest.empty = s.empty := by
  simp [State.empty]

/-! ### The live elements after an overwriting insert (R78) -/

theorem State.live_eq_of_queue {s : State} {k v : Nat} (hk : k < s.count) (h : s.queue[k]? = some v) : s.live k = v :=
  Option.some.inj ((State.queue_getElem? hk).symm.trans h)

/-- The new element becomes the newest. -/
theorem State.replace_live_newest {s : State} (hs : s.InRange) (hfull : s.full = true) (v : Nat) :
    (s.memWrite s.wrSlot v).replaceOldest.live (s.config.capacity - 1) = v := by
  have hcount := State.full_iff_count_eq_capacity.mp hfull
  have hlength : s.queue.tail.length = s.config.capacity - 1 := by rw [List.length_tail, State.queue_length, hcount]
  refine State.live_eq_of_queue ?_ ?_
  · rw [State.replace_count, hcount]
    exact Nat.sub_one_lt_of_lt s.config.capacity_pos
  · rw [State.replace_queue hs hfull, ← hlength, List.getElem?_concat_length]

/-- Every other live element moves one position towards the front. -/
theorem State.replace_live_shift {s : State} (hs : s.InRange) (hfull : s.full = true) (v : Nat) {i : Nat}
    (hi : i + 1 < s.config.capacity) : (s.memWrite s.wrSlot v).replaceOldest.live i = s.live (i + 1) := by
  rw [← State.full_iff_count_eq_capacity.mp hfull] at hi
  have hkept : i < s.queue.tail.length := by
    rw [List.length_tail, State.queue_length]
    exact Nat.lt_sub_of_add_lt hi
  refine State.live_eq_of_queue ?_ ?_
  · rw [State.replace_count]
    exact Nat.lt_of_succ_lt hi
  · rw [State.replace_queue hs hfull, List.getElem?_append_left hkept, List.getElem?_tail]
    exact State.queue_getElem? hi

/-- On a full buffer the slot of the next write is the slot of the oldest element. -/
theorem State.InRange.wrSlot_eq_rdSlot {s : State} (hs : s.InRange) (hfull : s.full = true) : s.wrSlot = s.rdSlot :=
  hs.slots_eq_iff.mpr (.inr (State.full_iff_count_eq_capacity.mp hfull))

/-! ### A block of one slot (R80) -/

/-- With one slot the list after a PUSHOV is its element alone: the slot was empty, or its element is dropped. -/
theorem fifoExec_pushov_one {q : List Nat} (hq : q.length ≤ 1) (din : Nat) :
    fifoExec 1 (.pushov din) q = ([din], .ok, none) := by
  match q, hq with
  | [], _ => rfl
  | [_], _ => rfl

/-! ### The statements of the family -/

/-- Settles O12: the two branches of PUSH, by the flag `full`. -/
theorem pushStoresOrRefuses : Obligations.PushStoresOrRefuses := by
  refine ⟨fun _ _ => rfl, fun s din => ⟨fun hfull => ?_, fun hroom => ?_⟩⟩
  · exact ⟨_, execPush_full (State.full_eq_true.mpr hfull), s.raise_onlyAnswers .bufferFull⟩
  · exact ⟨_, execPush_room (State.full_eq_false.mpr hroom), State.answer_answers _ _, rfl, rfl,
      fun a => Memory.read_write s.storage s.wrSlot a din, rfl, rfl, rfl,
      fun hle => ⟨State.insert_count hle s.wrSlot din, State.insert_empty hle s.wrSlot din,
        State.full_iff_count_eq_capacity⟩⟩

/-- Settles O13: the two branches of PUSHOV, by the flag `full` before the step. -/
theorem pushovAlwaysStores : Obligations.PushovAlwaysStores := by
  refine ⟨fun _ _ => rfl, fun s din => ?_⟩
  have hread (a : Nat) := Memory.read_write s.storage s.wrSlot a din
  cases hfull : s.full with
  | true =>
    have hcap := State.full_eq_true.mp hfull
    have hempty := State.empty_eq_false_of_full hfull
    exact ⟨_, execPushov_full hfull, State.answer_answers _ _, rfl, (if_pos hcap).symm, hread, (if_pos hcap).symm,
      rfl, rfl, fun _ => ⟨(State.replace_empty s s.wrSlot din).trans hempty, State.full_iff_count_eq_capacity,
        fun _ => (State.replace_full s s.wrSlot din).trans hfull⟩⟩
  | false =>
    have hcap := State.full_eq_false.mp hfull
    exact ⟨_, execPushov_room hfull, State.answer_answers _ _, rfl, (if_neg hcap).symm, hread, (if_neg hcap).symm,
      rfl, rfl, fun hle => ⟨State.insert_empty hle s.wrSlot din, State.full_iff_count_eq_capacity,
        fun h => absurd h Bool.false_ne_true⟩⟩

/-- Settles O20: the same branches, with `cnt` in place of the flag and `wr_ptr` in place of the slot of `head`. -/
theorem insertRegisterLevel : Obligations.InsertRegisterLevel := by
  intro s din hs
  have hcap := hs.represented.cnt_eq_capacity
  have hroom (hcnt : s.regs.cnt ≠ s.config.capacity) : s.full = false := Bool.eq_false_iff.mpr (mt hcap.mpr hcnt)
  have hslot : Memory.write s.storage s.wrSlot din = Memory.write s.storage s.regs.wrPtr din := by
    rw [hs.represented.wrSlot_eq]
  obtain ⟨-, -, hle, -⟩ := hs.regs_inRange
  refine ⟨fun hcnt => ?_, fun hcnt => ?_, ?_⟩
  · exact ⟨_, execPush_full (hcap.mp hcnt), s.raise_onlyAnswers .bufferFull⟩
  · exact ⟨_, execPush_room (hroom hcnt), State.answer_answers _ _, hslot, rfl,
      s.config.count_lt_two_pow_cntWidth (Nat.lt_of_le_of_ne hle hcnt)⟩
  · by_cases hcnt : s.regs.cnt = s.config.capacity
    · exact ⟨_, execPushov_full (hcap.mp hcnt), State.answer_answers _ _, hslot, (if_pos hcnt).symm⟩
    · exact ⟨_, execPushov_room (hroom hcnt), State.answer_answers _ _, hslot, (if_neg hcnt).symm⟩

/-- Settles O32: with room left both commands take the same update; on a full buffer the live elements are read off the list. -/
theorem pushovIsPushUnlessFull : Obligations.PushovIsPushUnlessFull := by
  refine fun s din hs => ⟨fun hroom => ?_, fun hfull => ?_⟩
  · exact ⟨_, _, execPushov_room hroom, execPush_room hroom, State.answer_answers _ _, State.answer_answers _ _,
      ⟨rfl, rfl, rfl, rfl, rfl⟩, rfl, rfl⟩
  · have hslot := hs.inRange.wrSlot_eq_rdSlot hfull
    have hptr : s.regs.rdPtr = s.regs.wrPtr := by rw [← hs.represented.rdSlot_eq, ← hslot, hs.represented.wrSlot_eq]
    exact ⟨hslot, _, execPushov_full hfull,
      (Memory.read_write s.storage s.wrSlot s.rdSlot din).trans (if_pos hslot.symm),
      (State.replace_count s s.wrSlot din).trans (State.full_iff_count_eq_capacity.mp hfull),
      State.replace_live_newest hs.inRange hfull din, fun i hi => State.replace_live_shift hs.inRange hfull din hi,
      congrArg (inc s.config.capacity) hptr⟩

/-- Settles O41: the simulation of one command by the list, read through what a visible response says. -/
theorem everyCommandActsAsOnAQueue : Obligations.EveryCommandActsAsOnAQueue := by
  intro s i hs
  obtain ⟨t, ht, -, -⟩ := exec_next i s
  obtain ⟨-, hqueue, hvisible⟩ := exec_simulates_fifoExec hs.inRange ht
  exact ⟨t, ht, hqueue, State.answers_of_visibleResponse hvisible⟩

/-- Settles O33: the list holds the new element alone after the PUSHOV, and nothing after the POP; the counters are those of
O13. -/
theorem oneSlotBufferKeepsTheNewest : Obligations.OneSlotBufferKeepsTheNewest := by
  intro s din hs hone
  obtain ⟨-, hpushov⟩ := pushovAlwaysStores
  obtain ⟨t, ht, -, hhead, htail, -, -, hconfig, -, -⟩ := hpushov s din
  obtain ⟨u, hu, -, -⟩ := exec_next .pop t
  have hcount := hs.inRange.count_le
  have htail_eq : t.tail = s.head := by
    have hle := hs.tail_le_head
    unfold State.count at hcount
    split at htail <;> omega
  obtain ⟨htrange, htqueue, -⟩ := exec_simulates_fifoExec hs.inRange ht
  rw [hone, fifoExec_pushov_one (by rw [State.queue_length]; omega)] at htqueue
  obtain ⟨-, huqueue, huvisible⟩ := exec_simulates_fifoExec htrange hu
  rw [htqueue] at huqueue huvisible
  obtain ⟨-, hreturns, -⟩ := State.answers_of_visibleResponse huvisible
  obtain ⟨hrd, hwr, -⟩ := exec_keeps_represented hs.inRange hs.represented ht
  rw [hconfig, hone, Nat.mod_one] at hrd hwr
  have htcount : t.count = 1 := by rw [← State.queue_length, htqueue]; rfl
  exact ⟨t, u, ht, hhead, htail_eq, htcount, hrd, hwr, htqueue, hu, hreturns din rfl, huqueue⟩

end Sys2Proof.Machine

/-! SUPPORT. POP and PEEK (spec/43_pop_peek.md): what the slot of a live element holds, and a run of PUSHes or of POPs as the
list sees it. -/

namespace Sys2Proof.Machine

/-! ### The slot of a live element (R45, R81, R84) -/

/-- A live slot has been written, with its live element. -/
theorem State.Inv.read_slotOf {s : State} (hs : s.Inv) {p : Nat} (hp : p < s.count) :
    Memory.read s.storage (s.slotOf p) = some (s.memRead (s.slotOf p)) := by
  obtain ⟨v, hv⟩ := Option.isSome_iff_exists.mp (hs.live_written p hp)
  rw [State.memRead, Memory.element_of_read hv, hv]

/-- The oldest element is at logical position 0. -/
theorem State.Inv.read_rdSlot {s : State} (hs : s.Inv) (hempty : s.empty = false) :
    Memory.read s.storage s.rdSlot = some (s.memRead s.rdSlot) := by
  have hcount : s.count ≠ 0 := by rw [Ne, ← hs.inRange.empty_iff_count_eq_zero, hempty]; decide
  exact hs.read_slotOf (Nat.pos_of_ne_zero hcount)

/-- A buffer with a live element has one fewer after a removal. -/
theorem State.removeOldest_count_add_one {s : State} (hs : s.InRange) (hempty : s.empty = false) :
    s.removeOldest.count + 1 = s.count := by
  rw [← State.queue_length, ← State.queue_length, State.queue_eq_cons hs hempty, List.length_cons]

theorem State.count_eq_zero_of_empty {s : State} (hempty : s.empty = true) : s.count = 0 :=
  Nat.sub_eq_zero_of_le (State.empty_eq_true.mp hempty).le

theorem State.empty_eq_false_of_lt_count {s : State} {k : Nat} (hk : k < s.count) : s.empty = false :=
  Bool.eq_false_iff.mpr fun hempty => Nat.not_lt_zero k (State.count_eq_zero_of_empty hempty ▸ hk)

/-- PEEK leaves everything PEEK reads as it was, so the same PEEK again answers the same (R40, R84). -/
theorem execPeek_again {s : State} {k : Nat} (hk : k < s.count) :
    exec (.peek k) (s.answerElement (s.memRead (s.slotOf k))) = .next (s.answerElement (s.memRead (s.slotOf k))) :=
  execPeek_in (s := s.answerElement _) hk

/-! ### Runs of PUSHes and of POPs (R83, R86) -/

theorem runInputs_inRange (xs : List Input) {s : State} (hs : s.InRange) : (runInputs s xs).2.InRange := by
  induction xs generalizing s with
  | nil => exact hs
  | cons x xs ih =>
    obtain ⟨t, hstep, -, hrun⟩ := runInputs_cons s x xs
    have hpending : (s.withInputs (x :: xs)).InRange := hs
    obtain ⟨hrange, -⟩ := step_simulates_fifoCycle hpending hstep
    rw [hrun]
    exact ih hrange

theorem fifoRun_append (capacity : Nat) (xs ys : List Input) (q : List Nat) :
    fifoRun capacity (xs ++ ys) q =
      ((fifoRun capacity xs q).1 ++ (fifoRun capacity ys (fifoRun capacity xs q).2).1,
        (fifoRun capacity ys (fifoRun capacity xs q).2).2) := by
  induction xs generalizing q with
  | nil => rfl
  | cons x xs ih => simp only [List.cons_append, fifoRun, ih]

theorem fifoCycle_push_room {capacity : Nat} {q : List Nat} (hroom : q.length ≠ capacity) (v : Nat) :
    fifoCycle capacity (Input.ofInstr (.push v)) q = (q ++ [v], ⟨fifoMoore capacity q, some (.ok, none)⟩) := by
  simp [fifoCycle, fifoExec, Input.ofInstr, hroom]

theorem fifoCycle_pop_cons (capacity v : Nat) (q : List Nat) :
    fifoCycle capacity (Input.ofInstr .pop) (v :: q) = (q, ⟨fifoMoore capacity (v :: q), some (.ok, some v)⟩) := rfl

/-- PUSHes that fit are all accepted and leave their elements at the end of the list, in order. -/
theorem fifoRun_pushes {capacity : Nat} {es q : List Nat} (hfit : q.length + es.length ≤ capacity) :
    (fifoRun capacity (es.map fun e => Input.ofInstr (.push e)) q).1.map CycleOutputs.response =
        es.map (fun _ => some (.ok, none)) ∧
      (fifoRun capacity (es.map fun e => Input.ofInstr (.push e)) q).2 = q ++ es := by
  induction es generalizing q with
  | nil => exact ⟨rfl, (List.append_nil q).symm⟩
  | cons e es ih =>
    rw [List.length_cons] at hfit
    have hroom : q.length ≠ capacity := by omega
    have hrest : (q ++ [e]).length + es.length ≤ capacity := by
      rw [List.length_append, List.length_singleton]
      omega
    obtain ⟨hresponses, hqueue⟩ := ih hrest
    simp only [List.map_cons, fifoRun, fifoCycle_push_room hroom, hresponses, hqueue, List.append_assoc,
      List.singleton_append, and_self]

/-- As many POPs as there are elements, or fewer, return them from the oldest on and leave the others. -/
theorem fifoRun_pops (capacity : Nat) {n : Nat} {q : List Nat} (hn : n ≤ q.length) :
    (fifoRun capacity (List.replicate n (Input.ofInstr .pop)) q).1.map CycleOutputs.response =
        (q.take n).map (fun v => some (.ok, some v)) ∧
      (fifoRun capacity (List.replicate n (Input.ofInstr .pop)) q).2 = q.drop n := by
  induction n generalizing q with
  | zero => exact ⟨rfl, rfl⟩
  | succ n ih =>
    match q, hn with
    | v :: rest, hn =>
      obtain ⟨hresponses, hqueue⟩ := ih (Nat.le_of_succ_le_succ hn)
      simp only [List.replicate_succ, fifoRun, fifoCycle_pop_cons, List.map_cons, hresponses, hqueue,
        List.take_succ_cons, List.drop_succ_cons, and_self]

/-- A list filled from empty and drained returns the elements in order and is empty again. -/
theorem fifoRun_fill_drain {capacity : Nat} {es : List Nat} (hfit : es.length ≤ capacity) :
    (fifoRun capacity (es.map (fun e => Input.ofInstr (.push e)) ++ es.map fun _ => Input.ofInstr .pop) []).1.map
        CycleOutputs.response = es.map (fun _ => some (.ok, none)) ++ es.map (fun e => some (.ok, some e)) ∧
      (fifoRun capacity (es.map (fun e => Input.ofInstr (.push e)) ++ es.map fun _ => Input.ofInstr .pop) []).2 = [] := by
  obtain ⟨hpushed, hfilled⟩ := fifoRun_pushes (q := []) (by simpa using hfit)
  obtain ⟨hpopped, hdrained⟩ := fifoRun_pops capacity (le_refl es.length)
  rw [List.take_length] at hpopped
  rw [List.drop_length] at hdrained
  rw [List.nil_append] at hfilled
  have hpops : (es.map fun _ => Input.ofInstr .pop) = List.replicate es.length (Input.ofInstr .pop) := List.map_const'
  rw [hpops, fifoRun_append, hfilled, List.map_append, hpushed, hpopped]
  exact ⟨rfl, hdrained⟩

/-! ### The statements of the family -/

/-- Settles O43: the run is a run of the list, where the PUSHes append the elements to the empty list and the POPs take them
off again. -/
theorem fillAndDrainReturnsElementsInOrder : Obligations.FillAndDrainReturnsElementsInOrder := by
  intro s es hs hempty hlength _
  have hsim := runInputs_simulates_fifoRun
    (es.map (fun e => Input.ofInstr (.push e)) ++ es.map fun _ => Input.ofInstr .pop) hs.inRange
  obtain ⟨hreturned, hdrained⟩ := fifoRun_fill_drain hlength.le
  rw [State.queue_eq_nil hempty] at hsim
  rw [← hsim] at hreturned hdrained
  refine ⟨hreturned, (runInputs_inRange _ hs.inRange).empty_iff_count_eq_zero.mpr ?_⟩
  rw [← State.queue_length]
  exact congrArg List.length hdrained

/-- Settles O14: the two branches of POP, by the flag `empty`. -/
theorem popReturnsTheOldest : Obligations.PopReturnsTheOldest := by
  refine ⟨fun _ _ => rfl, fun s => ⟨fun hempty => ?_, fun hlive => ?_⟩⟩
  · exact ⟨_, execPop_empty (State.empty_eq_true.mpr hempty), s.raise_onlyAnswers .bufferEmpty⟩
  · have hempty := State.empty_eq_false.mpr hlive
    refine ⟨_, s.memRead s.rdSlot, execPop_live hempty, rfl, fun hs => ?_⟩
    exact ⟨hs.read_rdSlot hempty, State.removeOldest_count_add_one hs.inRange hempty,
      State.removeOldest_full hs.inRange hempty, (hs.inRange.remove hempty).empty_iff_count_eq_zero⟩

/-- Settles O15: the two branches of PEEK, by `count`; position 0 is the slot POP reads. -/
theorem peekInspectsWithoutChange : Obligations.PeekInspectsWithoutChange := by
  refine ⟨fun _ _ => rfl, fun s offset => ⟨fun hout => ?_, fun hin => ?_⟩⟩
  · exact ⟨_, execPeek_out hout, s.raise_onlyAnswers .outOfRange⟩
  · refine ⟨_, s.memRead (s.slotOf offset), execPeek_in hin, rfl, execPeek_again hin, fun hs => hs.read_slotOf hin, ?_⟩
    rintro rfl
    exact ⟨_, execPop_live (State.empty_eq_false_of_lt_count hin), rfl⟩

/-- Settles O21: the same branches, with `cnt` in place of the count and the slots addressed by `rd_ptr`. -/
theorem removeRegisterLevel : Obligations.RemoveRegisterLevel := by
  intro s offset hs
  have hrep := hs.represented
  have hzero := hrep.cnt_eq_zero hs.tail_le_head
  obtain ⟨-, -, hle, -⟩ := hs.regs_inRange
  refine ⟨fun hcnt => ?_, fun hcnt => ?_, fun hout => ?_, fun hin => ?_⟩
  · exact ⟨_, execPop_empty (hzero.mp hcnt), s.raise_onlyAnswers .bufferEmpty⟩
  · have hempty : s.empty = false := Bool.eq_false_iff.mpr (mt hzero.mpr hcnt)
    exact ⟨_, _, execPop_live hempty, hrep.rdSlot_eq ▸ hs.read_rdSlot hempty, rfl, rfl, rfl⟩
  · exact ⟨_, execPeek_out (hrep.cnt_eq_count ▸ hout), s.raise_onlyAnswers .outOfRange⟩
  · have hlive : offset < s.count := hrep.cnt_eq_count ▸ hin
    have hslot := hrep.slotOf_eq_addWrap (hin.le.trans hle)
    exact ⟨_, _, execPeek_in hlive, hslot ▸ hs.read_slotOf hlive, rfl, rfl, rfl⟩

/-- Settles O44: PEEK reads position `i` of the list, and `i + 1` POPs return its first `i + 1` elements. -/
theorem peekReturnsTheLaterPop : Obligations.PeekReturnsTheLaterPop := by
  intro s i hs hi
  refine ⟨_, s.memRead (s.slotOf i), execPeek_in hi, rfl, ?_⟩
  have hlength : i + 1 ≤ s.queue.length := by rwa [State.queue_length]
  obtain ⟨hpopped, -⟩ := fifoRun_pops s.config.capacity hlength
  rw [← runInputs_simulates_fifoRun _ hs.inRange] at hpopped
  rw [hpopped, List.getElem?_map, List.getElem?_take_of_lt i.lt_succ_self, State.queue_getElem? hi, Option.map_some]

/-- Settles O29: an empty buffer has count 0, which no offset is below. -/
theorem peekOnEmptyIsOutOfRange : Obligations.PeekOnEmptyIsOutOfRange := by
  intro s offset hempty
  have hout : s.count ≤ offset := (State.count_eq_zero_of_empty hempty).trans_le (Nat.zero_le offset)
  exact ⟨_, execPeek_out hout, s.raise_onlyAnswers .outOfRange⟩

end Sys2Proof.Machine

/-! SUPPORT. FLUSH, NOP and the reserved code (spec/44_flush_nop.md): a NOP cycle leaves the block as it was, and a removal
leaves for FLUSH what was there before it. -/

namespace Sys2Proof.Machine

/-! ### The same block -/

theorem State.SameBlock.symm {s t : State} (h : s.SameBlock t) : t.SameBlock s := by
  obtain ⟨hconfig, hstorage, hhead, htail, hregs⟩ := h
  exact ⟨hconfig.symm, hstorage.symm, hhead.symm, htail.symm, hregs.symm⟩

theorem State.SameBlock.trans {s t u : State} (hst : s.SameBlock t) (htu : t.SameBlock u) : s.SameBlock u := by
  obtain ⟨hconfig, hstorage, hhead, htail, hregs⟩ := hst
  obtain ⟨hconfig', hstorage', hhead', htail', hregs'⟩ := htu
  exact ⟨hconfig.trans hconfig', hstorage.trans hstorage', hhead.trans hhead', htail.trans htail', hregs.trans hregs'⟩

/-! ### NOP cycles (R92) -/

theorem exec_nop (s : State) : exec .nop s = .next (s.answer .ok) := rfl

theorem exec_illegal (s : State) : exec .illegal s = .next (s.raise .illegalCommand) := rfl

theorem Input.isNop_eq_true {x : Input} : x.isNop = true ↔ x.rst = false ∧ x.command.cmd = 0 := by
  simp [Input.isNop]

/-- The cycle of a NOP input answers OK and keeps everything but the input it takes. -/
theorem step_of_isNop {x : Input} (hx : x.isNop = true) (s : State) (xs : List Input) :
    step (s.withInputs (x :: xs)) = .next ((s.withInputs xs).answer .ok) := by
  obtain ⟨hrst, hcmd⟩ := Input.isNop_eq_true.mp hx
  have hdecode : decodeCommand x.command = .nop := by simp [decodeCommand, hcmd]
  rw [step_command (s := s.withInputs (x :: xs)) hrst, State.presented_withInputs_cons, hdecode]
  exact exec_nop _

/-- A NOP in front of a run adds its own cycle and changes nothing of the cycles after it, nor of the block they lead to. -/
theorem runInputs_cons_of_isNop {x : Input} (hx : x.isNop = true) (s : State) (xs : List Input) :
    ∃ o, (runInputs s (x :: xs)).1 = o :: (runInputs s xs).1 ∧
      (runInputs s (x :: xs)).2.SameBlock (runInputs s xs).2 := by
  have hsame : ((s.withInputs []).answer .ok).SameBlock s := ⟨rfl, rfl, rfl, rfl, rfl⟩
  obtain ⟨houtputs, hfinal⟩ := runInputs_eq_of_sameBlock xs hsame
  rw [runInputs_cons_of_step (step_of_isNop hx s []), houtputs]
  exact ⟨_, rfl, hfinal⟩

/-- Dropping the NOPs of a run drops their cycles alone: by induction over the inputs, where a NOP leads to the same block and
any other input to the same state in both runs. -/
theorem runInputs_without_nops (xs : List Input) (s : State) :
    ((xs.zip (runInputs s xs).1).filter fun p => !p.1.isNop).map Prod.snd =
        (runInputs s (xs.filter fun x => !x.isNop)).1 ∧
      (runInputs s xs).2.SameBlock (runInputs s (xs.filter fun x => !x.isNop)).2 := by
  induction xs generalizing s with
  | nil => exact ⟨rfl, rfl, rfl, rfl, rfl, rfl⟩
  | cons x xs ih =>
    cases hx : x.isNop with
    | true =>
      obtain ⟨o, houtputs, hfinal⟩ := runInputs_cons_of_isNop hx s xs
      obtain ⟨hkept, hblock⟩ := ih s
      rw [houtputs, List.zip_cons_cons, List.filter_cons_of_neg (by simp [hx]), List.filter_cons_of_neg (by simp [hx])]
      exact ⟨hkept, hfinal.trans hblock⟩
    | false =>
      obtain ⟨t, hstep, -, -⟩ := step_next (s.withInputs [x])
      obtain ⟨hkept, hblock⟩ := ih t
      rw [runInputs_cons_of_step hstep, List.zip_cons_cons, List.filter_cons_of_pos (by simp [hx]),
        List.filter_cons_of_pos (by simp [hx]), runInputs_cons_of_step hstep, List.map_cons, hkept]
      exact ⟨rfl, hblock⟩

/-! ### FLUSH by POPs (R91) -/

/-- Discarding the elements of an empty buffer leaves the block as it is, registers included. -/
theorem State.Represented.discardAll_sameBlock_of_empty {s : State} (hrep : s.Represented) (hempty : s.empty = true) :
    s.discardAll.SameBlock s := by
  have htail := State.empty_eq_true.mp hempty
  obtain ⟨hrd, hwr, hcnt⟩ := hrep
  have hptr : s.regs.wrPtr = s.regs.rdPtr := by rw [hrd, hwr, htail]
  have hzero : s.regs.cnt = 0 := by rw [hcnt, htail, Nat.sub_self]
  have hregs : s.regs.discard = s.regs := by
    change (⟨s.regs.wrPtr, s.regs.wrPtr, 0⟩ : Registers) = ⟨s.regs.rdPtr, s.regs.wrPtr, s.regs.cnt⟩
    rw [hptr, hzero]
  exact ⟨rfl, rfl, rfl, htail, hregs⟩

/-- A buffer with a live element answers a POP with it and goes on without it. -/
theorem step_pop_live {s : State} (hempty : s.empty = false) (xs : List Input) :
    step (s.withInputs (Input.ofInstr .pop :: xs)) =
      .next ((s.withInputs xs).removeOldest.answerElement (s.memRead s.rdSlot)) :=
  (step_command rfl).trans (execPop_live (s := s.withInputs xs) hempty)

/-- As many POPs as there are elements discard them all: by induction on the count, since what a removal leaves discards to the
same block. -/
theorem runInputs_count_pops {n : Nat} {s : State} (hs : s.InRange) (hrep : s.Represented) (hcount : s.count = n) :
    (runInputs s (List.replicate n (Input.ofInstr .pop))).2.SameBlock s.discardAll := by
  induction n generalizing s with
  | zero => exact (hrep.discardAll_sameBlock_of_empty (hs.empty_iff_count_eq_zero.mpr hcount)).symm
  | succ n ih =>
    have hempty : s.empty = false := State.empty_eq_false_of_lt_count (n.succ_pos.trans_eq hcount.symm)
    have hremoved : s.removeOldest.count = n := by rw [State.removeOldest_count, hcount, Nat.add_sub_cancel]
    rw [List.replicate_succ, runInputs_cons_of_step (step_pop_live hempty [])]
    exact ih (hs.remove hempty) hrep.remove hremoved

/-! ### The statements of the family -/

/-- Settles O11: NOP only answers, and its cycles drop out of a run by induction over the inputs. -/
theorem nopChangesNothing : Obligations.NopChangesNothing :=
  ⟨fun _ _ => rfl, fun s => ⟨_, exec_nop s, _, _, BitVec.isLt _, rfl⟩, fun s xs => runInputs_without_nops xs s⟩

/-- Settles O17: by induction on the count. Of the invariant it needs the range of the counters and that the registers
represent them. -/
theorem flushIsCountPops : Obligations.FlushIsCountPops :=
  fun s hs => ⟨_, exec_flush s, runInputs_count_pops hs.inRange hs.represented rfl⟩

/-- Settles O16: FLUSH answers OK on the block with its elements discarded, which has none left to discard. -/
theorem flushEmptiesAndKeepsHead : Obligations.FlushEmptiesAndKeepsHead := by
  refine ⟨fun _ _ => rfl, fun s => ⟨_, exec_flush s, State.answer_answers _ _, rfl, rfl, rfl, rfl, rfl, rfl,
    State.moore_of_head_eq_tail rfl, fun hs hempty => hs.represented.discardAll_sameBlock_of_empty hempty, ?_⟩⟩
  exact ⟨_, exec_flush _, rfl, rfl, rfl, rfl, rfl⟩

/-- Settles O19: the reserved code raises IllegalCommand, and raising a failure only answers. -/
theorem reservedCodeIsReportedAndHarmless : Obligations.ReservedCodeIsReportedAndHarmless :=
  ⟨fun _ _ => rfl, fun s => ⟨_, exec_illegal s, s.raise_onlyAnswers .illegalCommand⟩⟩

end Sys2Proof.Machine

/-! SUPPORT. The failures (spec/60_exceptions.md): the status of a command as a function of the state before it, and what a
failing command leaves as it was. -/

namespace Sys2Proof.Machine

/-! ### The status a command answers (R95, R97 to R101) -/

theorem State.Answers.unique {t : State} {st st' : Status} (h : t.Answers st) (h' : t.Answers st') : st = st' := by
  obtain ⟨r, hr, rfl⟩ := h
  obtain ⟨r', hr', rfl⟩ := h'
  rw [Option.some.inj (hr.symm.trans hr')]

/-- The status of a command: its one failure under that failure's condition, and OK otherwise. -/
def State.statusOf (s : State) : Instr → Status
  | .nop => .ok
  | .push _ => if s.full then .bufferFull else .ok
  | .pushov _ => .ok
  | .pop => if s.empty then .bufferEmpty else .ok
  | .peek offset => if s.count ≤ offset then .outOfRange else .ok
  | .flush => .ok
  | .release => .ok
  | .illegal => .illegalCommand

/-- A command answers its status: it raises the failure of that code, or its status is OK. -/
theorem exec_raises_or_answers_ok (i : Instr) (s : State) :
    (∃ f : Failure, exec i s = .next (s.raise f) ∧ s.statusOf i = f.status) ∨
    (∃ t, exec i s = .next t ∧ t.Answers .ok ∧ s.statusOf i = .ok) := by
  cases i with
  | nop => exact .inr ⟨_, exec_nop s, State.answer_answers _ _, rfl⟩
  | flush => exact .inr ⟨_, exec_flush s, State.answer_answers _ _, rfl⟩
  | release => exact .inr ⟨_, exec_release s, State.answer_answers _ _, rfl⟩
  | illegal => exact .inl ⟨.illegalCommand, exec_illegal s, rfl⟩
  | push din =>
    cases hfull : s.full with
    | true => exact .inl ⟨.bufferFull, execPush_full hfull, if_pos hfull⟩
    | false => exact .inr ⟨_, execPush_room hfull, State.answer_answers _ _, if_neg (Bool.eq_false_iff.mp hfull)⟩
  | pushov din =>
    cases hfull : s.full with
    | true => exact .inr ⟨_, execPushov_full hfull, State.answer_answers _ _, rfl⟩
    | false => exact .inr ⟨_, execPushov_room hfull, State.answer_answers _ _, rfl⟩
  | pop =>
    cases hempty : s.empty with
    | true => exact .inl ⟨.bufferEmpty, execPop_empty hempty, if_pos hempty⟩
    | false => exact .inr ⟨_, execPop_live hempty, ⟨_, rfl, rfl⟩, if_neg (Bool.eq_false_iff.mp hempty)⟩
  | peek offset =>
    rcases Nat.lt_or_ge offset s.count with hin | hout
    · exact .inr ⟨_, execPeek_in hin, ⟨_, rfl, rfl⟩, if_neg (Nat.not_le.mpr hin)⟩
    · exact .inl ⟨.outOfRange, execPeek_out hout, if_pos hout⟩

theorem exec_answers_statusOf (i : Instr) (s : State) : ∃ t, exec i s = .next t ∧ t.Answers (s.statusOf i) := by
  rcases exec_raises_or_answers_ok i s with ⟨f, h, hstatus⟩ | ⟨t, h, hok, hstatus⟩ <;> rw [hstatus]
  · exact ⟨_, h, State.answer_answers s f.status⟩
  · exact ⟨t, h, hok⟩

theorem State.statusOf_eq_bufferFull {s : State} {i : Instr} :
    s.statusOf i = .bufferFull ↔ (∃ din, i = .push din) ∧ s.full = true := by
  cases i <;> simp [State.statusOf, ite_eq_iff]

theorem State.statusOf_eq_bufferEmpty {s : State} {i : Instr} :
    s.statusOf i = .bufferEmpty ↔ i = .pop ∧ s.empty = true := by
  cases i <;> simp [State.statusOf, ite_eq_iff]

theorem State.statusOf_eq_outOfRange {s : State} {i : Instr} :
    s.statusOf i = .outOfRange ↔ ∃ k, i = .peek k ∧ s.count ≤ k := by
  cases i <;> simp [State.statusOf, ite_eq_iff]

theorem State.statusOf_eq_illegalCommand {s : State} {i : Instr} : s.statusOf i = .illegalCommand ↔ i = .illegal := by
  cases i <;> simp [State.statusOf, ite_eq_iff]

theorem Status.eq_ok_iff {st : Status} :
    st = .ok ↔ ¬(st = .bufferFull ∨ st = .bufferEmpty ∨ st = .outOfRange ∨ st = .illegalCommand) := by
  cases st <;> decide

/-! ### What a failing command leaves as it was (R103, R105) -/

theorem State.OnlyAnswers.sameBlock {s t : State} {st : Status} (h : s.OnlyAnswers t st) :
    t.SameBlock s ∧ t.inputs = s.inputs := by
  obtain ⟨d, n, -, rfl⟩ := h
  exact ⟨⟨rfl, rfl, rfl, rfl, rfl⟩, rfl⟩

/-- A command that answers another status than OK has raised a failure. -/
theorem exec_onlyAnswers_of_ne_ok {i : Instr} {s t : State} {st : Status} (h : exec i s = .next t) (hst : t.Answers st)
    (hne : st ≠ .ok) : s.OnlyAnswers t st := by
  rcases exec_raises_or_answers_ok i s with ⟨f, hf, -⟩ | ⟨u, hu, hok, -⟩
  · cases h.symm.trans hf
    rw [hst.unique (State.answer_answers s f.status)]
    exact s.raise_onlyAnswers f
  · cases h.symm.trans hu
    exact absurd (hst.unique hok) hne

/-- A cycle that answers another status than OK is no reset, and takes its input and does nothing else. -/
theorem step_onlyAnswers_of_ne_ok {s t : State} {st : Status} (h : step s = .next t) (hst : t.Answers st)
    (hne : st ≠ .ok) : s.afterFetch.OnlyAnswers t st := by
  cases hr : s.presented.rst with
  | true =>
    cases h.symm.trans (step_rst hr)
    obtain ⟨r, hnone, -⟩ := hst
    cases hnone
  | false => exact exec_onlyAnswers_of_ne_ok ((step_command hr).symm.trans h) hst hne

/-! ### The statements of the family -/

/-- Settles O27: a command answers its status and no other, and each failure is the status of one command under its condition. -/
theorem eachFailureHasOneCause : Obligations.EachFailureHasOneCause := by
  intro s i
  obtain ⟨t, ht, hstatus⟩ := exec_answers_statusOf i s
  have hiff (st : Status) : t.Answers st ↔ s.statusOf i = st := ⟨hstatus.unique, fun h => h ▸ hstatus⟩
  refine ⟨t, ht, ?_⟩
  simp only [hiff]
  exact ⟨State.statusOf_eq_bufferFull, State.statusOf_eq_bufferEmpty, State.statusOf_eq_outOfRange, State.statusOf_eq_illegalCommand,
    Status.eq_ok_iff⟩

/-- Settles O30: a failing cycle leaves the block and the inputs of the state that has only taken its input, and no later cycle
tells two such states apart. -/
theorem failuresArePreciseAndLeaveNoMark : Obligations.FailuresArePreciseAndLeaveNoMark := by
  intro s t st hstep hst hne
  obtain ⟨hblock, hinputs⟩ := (step_onlyAnswers_of_ne_ok hstep hst hne).sameBlock
  exact ⟨hblock, hinputs, fun n => observe_eq_of_sameBlock n hblock hinputs⟩

/-- Settles O28: the status of these four commands is OK in every state. -/
theorem totalCommandsAlwaysAnswerOk : Obligations.TotalCommandsAlwaysAnswerOk := by
  intro s i hi
  have hok : s.statusOf i = .ok := by rcases hi with rfl | ⟨din, rfl⟩ | rfl | rfl <;> rfl
  exact hok ▸ exec_answers_statusOf i s

end Sys2Proof.Machine

/-! SUPPORT. The reset step (spec/70_reset_and_hazards.md): what a cycle with `rst = 1` leaves, and that it is idempotent. -/

namespace Sys2Proof.Machine

/-! ### The reset step (R112, R113) -/

/-- A cycle with `rst = 1` is a reset edge, whatever the command ports carry (R113). -/
theorem step_reset (s : State) (x : Command) (rest : List Input) :
    step (s.withInputs (⟨true, x⟩ :: rest)) = .next (s.withInputs rest).resetEdge := step_rst rfl

theorem State.resetEdge_withInputs (s : State) (xs : List Input) :
    s.resetEdge.withInputs xs = (s.withInputs xs).resetEdge := rfl

theorem State.resetEdge_resetEdge (s : State) : s.resetEdge.resetEdge = s.resetEdge := rfl

/-- A reset block shows the outputs of a newly built one (R31, R112). -/
theorem State.resetEdge_moore (s : State) : s.resetEdge.moore = (State.initial s.config).moore :=
  (State.moore_of_head_eq_tail s.resetEdge_head).trans
    (State.moore_of_head_eq_tail (s := State.initial s.config) rfl).symm

/-- A reset cycle after a reset edge only takes its input (R112). -/
theorem step_reset_resetEdge (s : State) (x : Command) (rest : List Input) :
    step (s.resetEdge.withInputs (⟨true, x⟩ :: rest)) = .next (s.resetEdge.withInputs rest) := by
  rw [step_reset, State.resetEdge_withInputs, State.resetEdge_resetEdge]

/-! ### The statement of the family -/

/-- Settles O8: the state after the step is the reset edge of the state that has taken its input, and a second edge keeps it. -/
theorem resetGivesTheEmptyBuffer : Obligations.ResetGivesTheEmptyBuffer := fun s x rest =>
  ⟨_, step_reset s x rest, rfl, rfl, rfl, rfl, rfl, rfl, rfl, rfl, State.resetEdge_moore _, rfl, State.resetEdge_queue _,
    fun y => step_reset_resetEdge _ y []⟩

end Sys2Proof.Machine
